-- ==== Sys2Proof/Word.lean ====
section
/-! DEFINITION. The word types of the hardware: bytes (00_scope.md R10) and 16-bit raw readings
(44_telemetry_loop.md R231). No value of this hardware is signed. -/

namespace Sys2Proof

/-- A byte; bit 7 is the most significant (00_scope.md R10). -/
abbrev Byte := BitVec 8

/-- A raw sensor reading, an unsigned 16-bit number (44_telemetry_loop.md R231). -/
abbrev Reading := BitVec 16

end Sys2Proof
end

