-- ==== Sys2Proof/Config.lean ====
section
/-! DEFINITION. What is fixed for the hardware or for one node: the constants of 00_scope.md R7, the parameters of R9 as
records with the constraints the spec gives and its defaults (log 4), the record `Cfg` of all parameters (R8, R9), and the
free values (log 8, 16, 25). -/

namespace Sys2Proof

/-- The role of the node, a configuration input fixed for its life (10_state.md R45). -/
inductive Role
  | child
  | parent
deriving DecidableEq, Repr

/-- The two values of the mode bit (10_state.md R29): bit 0 of REG_CONFIG, 0 = transmit, 1 = receive. -/
inductive ModeBit
  | transmit
  | receive
deriving DecidableEq, Repr

/-- The mode bit as the bit it is (10_state.md R29). -/
def ModeBit.bit : ModeBit → Byte
  | .transmit => 0x00
  | .receive => 0x01

/-- `HOST_ENDIAN`, the host's native byte order (20_memory.md R63 b). -/
inductive Endian
  | little
  | big
deriving DecidableEq, Repr

namespace Config

/-! Constants the source fixes (00_scope.md R7). -/

/-- `ADDR_BITS`, width of a register address. -/
abbrev addrBits : Nat := 5
/-- `REG_LO`, lowest register address the cache holds. -/
def regLo : Byte := 0x00
/-- `REG_HI`, highest register address the cache holds. -/
def regHi : Byte := 0x1D
/-- Number of addresses `REG_LO` to `REG_HI`. -/
abbrev numRegs : Nat := 30
/-- `OPC_R_REGISTER_BASE`. -/
def opcRRegisterBase : Byte := 0x00
/-- `OPC_W_REGISTER_BASE`. -/
def opcWRegisterBase : Byte := 0x20
/-- `FIFO_MAX`, greatest number of bytes in one FIFO frame and one packet. -/
abbrev fifoMax : Nat := 32
/-- `PAYLOAD_LEN`, payload length, and receive payload width of pipe 0. -/
def payloadLen : Byte := 0x02
/-- `ADDR_LEN`, number of address bytes written to the transmit-address register. -/
abbrev addrLen : Nat := 5
/-- `AW_NOMINAL`, the address width in bytes the width setting nominally selects (70_reset_and_hazards.md R335: the
pair `awNominal` = 3, `addrLen` = 5 is preserved as the source asks). -/
abbrev awNominal : Nat := 3
/-- `N_VALIDATED`, number of validated configuration registers in Init. -/
abbrev nValidated : Nat := 7
/-- `RETR_COUNT`, auto-retransmit count written by Init. -/
def retrCount : Byte := 0
/-- `RETR_DELAY`, auto-retransmit delay written by Init. -/
def retrDelay : Byte := 0
/-- `CRC_BITS`, CRC width configured. -/
abbrev crcBits : Nat := 16
/-- `CE_PULSE_MIN_US`, least duration of the enable pulse, microseconds. -/
abbrev cePulseMinUs : Nat := 10
/-- `TICK_MS`, period of the tick, milliseconds; the model has no time, so no step reads it. -/
abbrev tickMs : Nat := 500
/-- `LINK_MAX`, reload value of the link countdown, ticks. -/
abbrev linkMax : Nat := 10
/-- `THRESHOLD`, raw-reading alert threshold. -/
abbrev threshold : Nat := 763

/-- `DUMMY`, the byte the engine sends when it only reads (30_encoding.md R95). -/
def dummy : Byte := 0xFF
/-- No pipe auto-acknowledges (10_state.md R30). -/
def enAaInit : Byte := 0x00

/-! Free values. -/

/-- The `n`-th byte no source specifies (a draw of 93_implementation_defined.md; log 8). -/
opaque freeByte : Nat → Byte

/-- The `n`-th raw reading the collaborator SampleSensor returns when no reading was supplied
(44_telemetry_loop.md R231; log 25). -/
opaque freeReading : Nat → Reading

/-- Whether the device takes frames sent to the first address when its pipe-0 address is the second and
its width setting the third, where 45_device_interpreter.md R273 leaves it open (log 16). -/
opaque addrMatchOpen : List Byte → List Byte → Byte → Bool

end Config

/-! Parameters no source gives a value (00_scope.md R9): record fields, with the constraints the spec puts on them. -/

/-- The five fixed commands (30_encoding.md R93). -/
structure Opcodes where
  opcRRxPayload : Byte
  opcWTxPayload : Byte
  opcFlushTx : Byte
  opcFlushRx : Byte
  opcNop : Byte
deriving DecidableEq, Repr

/-- The five opcodes. -/
def Opcodes.all (o : Opcodes) : List Byte := [o.opcRRxPayload, o.opcWTxPayload, o.opcFlushTx, o.opcFlushRx, o.opcNop]

/-- What a model may rely on (30_encoding.md R93, 92_eei_decisions.md D4): pairwise distinct, outside 0x00 to 0x3F. -/
def Opcodes.ok (o : Opcodes) : Bool := decide o.all.Nodup && o.all.all fun b => decide (0x3F#8 < b)

/-- The defaults (30_encoding.md R93), which opcode_table.json lists. PRESUMED, log 4. -/
def Opcodes.family : Opcodes where
  opcRRxPayload := 0x61
  opcWTxPayload := 0xA0
  opcFlushTx := 0xE1
  opcFlushRx := 0xE2
  opcNop := 0xFF

/-- The register addresses (10_state.md R28), the register that enables the receive pipes, and the read-only
registers (10_state.md R38; log 10, log 37). -/
structure Registers where
  regConfig : Byte
  regEnAa : Byte
  regSetupAw : Byte
  regSetupRetr : Byte
  regRfCh : Byte
  regRfSetup : Byte
  regStatus : Byte
  regRxAddrP0 : Byte
  regTxAddr : Byte
  regRxPwP0 : Byte
  regEnRxAddr : Byte
  readOnlyRegs : List Byte
deriving DecidableEq, Repr

/-- The ten addresses of 10_state.md R28. -/
def Registers.named (r : Registers) : List Byte :=
  [r.regConfig, r.regEnAa, r.regSetupAw, r.regSetupRetr, r.regRfCh, r.regRfSetup, r.regStatus, r.regRxAddrP0, r.regTxAddr,
    r.regRxPwP0]

/-- What a model may rely on (10_state.md R28): the ten addresses are distinct and lie in 0x00 to 0x1D. That none of them
is read-only, and that the pipe-enabling register is another one, is read from 10_state.md R28 to R38 (log 4). -/
def Registers.ok (r : Registers) : Bool :=
  decide r.named.Nodup && (r.named.all fun a => decide (a ≤ Config.regHi) && decide (a ∉ r.readOnlyRegs))
    && decide (r.regEnRxAddr ∉ r.named)

/-- The defaults (10_state.md R28, R38). PRESUMED, log 4 and log 10. -/
def Registers.family : Registers where
  regConfig := 0x00
  regEnAa := 0x01
  regSetupAw := 0x03
  regSetupRetr := 0x04
  regRfCh := 0x05
  regRfSetup := 0x06
  regStatus := 0x07
  regRxAddrP0 := 0x0A
  regTxAddr := 0x10
  regRxPwP0 := 0x11
  regEnRxAddr := 0x02
  readOnlyRegs := [0x08, 0x09, 0x17]

/-- The bit positions of the named fields (10_state.md R29 to R37): `bit…` of a field of one bit, `lo…` the lowest bit
of a wider one, whose width the rule gives. -/
structure BitPositions where
  /-- R29: the mode bit. -/
  bitPrimRx : Nat
  bitPwrUp : Nat
  bitCrco : Nat
  bitEnCrc : Nat
  bitMaskMaxRt : Nat
  bitMaskTxDs : Nat
  bitMaskRxDr : Nat
  /-- R30: pipes 5 to 0. -/
  loEnAa : Nat
  /-- R31: `AW`, two bits. -/
  loAw : Nat
  /-- R32: `ARC`, four bits. -/
  loArc : Nat
  /-- R32: `ARD`, four bits. -/
  loArd : Nat
  /-- R33: the channel, seven bits. -/
  loRfCh : Nat
  /-- R34. -/
  bitLnaGain : Nat
  /-- R34: output power, two bits. -/
  loRfPwr : Nat
  bitRfDr : Nat
  bitPllLock : Nat
  /-- R35. -/
  bitRxDr : Nat
  bitTxDs : Nat
  bitMaxRt : Nat
  /-- R35: `RX_P_NO`, three bits. -/
  loRxPNo : Nat
  bitTxFull : Nat
  /-- R37: the payload width, six bits. -/
  loRxPw : Nat
  /-- Pipe 0 in the pipe-enabling register (R38; log 37). -/
  bitErxP0 : Nat
deriving DecidableEq, Repr

/-- The bits of `REG_CONFIG` that have a name (R29). -/
def BitPositions.configBits (b : BitPositions) : List Nat :=
  [b.bitPrimRx, b.bitPwrUp, b.bitCrco, b.bitEnCrc, b.bitMaskMaxRt, b.bitMaskTxDs, b.bitMaskRxDr]
/-- The bits of `REG_EN_AA` that have a name (R30). -/
def BitPositions.enAaBits (b : BitPositions) : List Nat := List.range' b.loEnAa 6
/-- The bits of `REG_SETUP_AW` that have a name (R31). -/
def BitPositions.awBits (b : BitPositions) : List Nat := List.range' b.loAw 2
/-- The bits of `REG_SETUP_RETR` that have a name (R32). -/
def BitPositions.retrBits (b : BitPositions) : List Nat := List.range' b.loArc 4 ++ List.range' b.loArd 4
/-- The bits of `REG_RF_CH` that have a name (R33). -/
def BitPositions.rfChBits (b : BitPositions) : List Nat := List.range' b.loRfCh 7
/-- The bits of `REG_RF_SETUP` that have a name (R34). -/
def BitPositions.rfSetupBits (b : BitPositions) : List Nat :=
  [b.bitLnaGain, b.bitRfDr, b.bitPllLock] ++ List.range' b.loRfPwr 2
/-- The bits of the status byte that have a name (R35). -/
def BitPositions.statusBits (b : BitPositions) : List Nat :=
  [b.bitRxDr, b.bitTxDs, b.bitMaxRt, b.bitTxFull] ++ List.range' b.loRxPNo 3
/-- The bits of `REG_RX_PW_P0` that have a name (R37). -/
def BitPositions.rxPwBits (b : BitPositions) : List Nat := List.range' b.loRxPw 6

/-- Fields lie inside their byte and do not overlap. -/
def layoutOk (bits : List Nat) : Bool := decide bits.Nodup && bits.all fun i => decide (i < 8)

/-- What a model may rely on (92_eei_decisions.md D5): single bits at distinct positions of their bytes. That the other
named fields of a byte do not overlap either is read from the layouts of R29 to R37 (log 4). -/
def BitPositions.ok (b : BitPositions) : Bool :=
  layoutOk b.configBits && layoutOk b.enAaBits && layoutOk b.awBits && layoutOk b.retrBits && layoutOk b.rfChBits
    && layoutOk b.rfSetupBits && layoutOk b.statusBits && layoutOk b.rxPwBits && decide (b.bitErxP0 < 8)

/-- The defaults (10_state.md R29 to R38). PRESUMED, log 4. -/
def BitPositions.family : BitPositions where
  bitPrimRx := 0
  bitPwrUp := 1
  bitCrco := 2
  bitEnCrc := 3
  bitMaskMaxRt := 4
  bitMaskTxDs := 5
  bitMaskRxDr := 6
  loEnAa := 0
  loAw := 0
  loArc := 0
  loArd := 4
  loRfCh := 0
  bitLnaGain := 0
  loRfPwr := 1
  bitRfDr := 3
  bitPllLock := 4
  bitRxDr := 6
  bitTxDs := 5
  bitMaxRt := 4
  loRxPNo := 1
  bitTxFull := 0
  loRxPw := 0
  bitErxP0 := 0

/-- The configuration of one node: the parameters of 00_scope.md R9, the open parameters of R8, the configuration bits
of 10_state.md R43 c and the fairness premise `transmit_completes` of 45_device_interpreter.md R275. No step changes
it. -/
structure Cfg extends Opcodes, Registers, BitPositions where
  /-- Child or Parent. -/
  role : Role
  /-- `CHANNEL`, the byte written to the channel register. -/
  channel : Byte
  /-- `RF_SETUP_VALUE`, the byte written to the data-rate, output-power and gain register. -/
  rfSetup : Byte
  /-- `PIPE_ADDR[0..4]`. -/
  pipeAddr : Vector Byte 5
  /-- `T_SETTLE` in microseconds; no rule depends on its value. -/
  tSettle : Nat
  /-- `CHILD_DIV`. -/
  childDiv : Nat
  /-- `INIT_MODE_CHILD`. -/
  initModeChild : ModeBit
  /-- `INIT_MODE_PARENT`. -/
  initModeParent : ModeBit
  /-- `HOST_ENDIAN`. -/
  hostEndian : Endian
  /-- `ABSENT_BYTE`. -/
  absentByte : Byte
  /-- `TX_FIFO_DEPTH`. -/
  txDepth : Nat
  /-- `RX_FIFO_DEPTH`. -/
  rxDepth : Nat
  /-- `dev.present`. -/
  present : Bool
  /-- `dev.stuck`, the addresses whose writes the device drops. -/
  stuck : List Byte
  /-- `transmit_completes`: a burst completes once the schedule is used up (log 12). -/
  txCompletes : Bool
deriving DecidableEq, Repr

/-- The device's opcodes, addresses and bit positions are ones the spec allows. -/
def Cfg.mapped (c : Cfg) : Bool := c.toOpcodes.ok && c.toRegisters.ok && c.toBitPositions.ok

/-- The defaults of R9 (log 4) and the example bindings of 95_test_vectors.md section 0, role Child. DESIGN CHOICE, log 6: only
`State.reset` uses them. -/
def Cfg.reference : Cfg where
  toOpcodes := Opcodes.family
  toRegisters := Registers.family
  toBitPositions := BitPositions.family
  role := .child
  channel := 0x4C
  rfSetup := 0x07
  pipeAddr := #v[0xE7, 0xE7, 0xE7, 0xE7, 0xE7]
  tSettle := 1500
  childDiv := 2
  initModeChild := .transmit
  initModeParent := .receive
  hostEndian := .little
  absentByte := 0xFF
  txDepth := 3
  rxDepth := 3
  present := true
  stuck := []
  txCompletes := true

end Sys2Proof
end

