-- ==== Sys2Proof/Syntax.lean ====
section
/-! DEFINITION. The two instruction sets of the hardware: the bus opcodes the device interprets (30_encoding.md
R90 to R96) and the requests the engine serves (30_encoding.md R100 to R103), one constructor for each row of
opcode_table.json; and what is presented to the node from outside. -/

namespace Sys2Proof

/-- An instruction. A bus opcode carries its 5-bit address and the bytes the master shifts out after the
opcode in the same frame (30_encoding.md R94, R95); a request carries the operands of 30_encoding.md R101. -/
inductive Instr
  /-- R_REGISTER: `000aaaaa`. -/
  | rRegister (addr : BitVec Config.addrBits) (data : List Byte)
  /-- W_REGISTER: `001aaaaa`. -/
  | wRegister (addr : BitVec Config.addrBits) (data : List Byte)
  /-- R_RX_PAYLOAD. -/
  | rRxPayload (data : List Byte)
  /-- W_TX_PAYLOAD. -/
  | wTxPayload (data : List Byte)
  /-- FLUSH_TX. -/
  | busFlushTx (data : List Byte)
  /-- FLUSH_RX. -/
  | busFlushRx (data : List Byte)
  /-- NOP. -/
  | busNop (data : List Byte)
  /-- ReadRegister(a) -/
  | readRegister (a : Byte)
  /-- WriteRegister(a, d) -/
  | writeRegister (a d : Byte)
  /-- WriteCommand(d) -/
  | writeCommand (d : Byte)
  /-- WriteRegisterBurst(a, n, buf) -/
  | writeRegisterBurst (a n : Byte) (buf : List Byte)
  /-- WriteValidated(a, d) -/
  | writeValidated (a d : Byte)
  /-- Init() -/
  | init
  /-- WriteFifo(n, buf) -/
  | writeFifo (n : Byte) (buf : List Byte)
  /-- ReadFifo(n) -/
  | readFifo (n : Byte)
  /-- FlushTx() -/
  | flushTx
  /-- FlushRx() -/
  | flushRx
  /-- ClearFlags(d) -/
  | clearFlags (d : Byte)
  /-- Send(n, buf) -/
  | send (n : Byte) (buf : List Byte)
  /-- Start(n, buf) -/
  | start (n : Byte) (buf : List Byte)
  /-- Initiate() -/
  | initiate
  /-- End() -/
  | endSend
  /-- SetModeBit(d) -/
  | setModeBit (d : Byte)
  /-- StartListening() -/
  | startListening
  /-- StopListening() -/
  | stopListening
  /-- GetMode() -/
  | getMode
  /-- PollReceived() -/
  | pollReceived
  /-- Boot() -/
  | boot
  /-- ChildTick() -/
  | childTick
  /-- ParentTick() -/
  | parentTick
deriving DecidableEq, Repr

/-- What is presented to the node from outside: a request on the request port (30_encoding.md R100), its
fields in the order op, a, d, n, buf, or the bytes of one raw frame on the serial line, opcode first
(30_encoding.md R94; log 20). -/
inductive Inbound
  | request (bytes : List Byte)
  | frame (bytes : List Byte)
deriving DecidableEq, Repr

/-- What the opcode byte of a frame selects (30_encoding.md R96). -/
inductive Opcode
  | readReg (a : Byte)
  | writeReg (a : Byte)
  | readRx
  | writeTx
  | flushTx
  | flushRx
  | nop
deriving DecidableEq, Repr

end Sys2Proof
end

