-- ==== Sys2Proof/WellFormed.lean ====
section
/-! DEFINITION. Which instructions an encoding stands for: a bus frame names a register address 0x00 to 0x1D
(30_encoding.md R91) and carries at most 32 data bytes (R94); a request's buffer is 32 bytes (R100). Illegal
operand VALUES of a request (R102) are well formed: the engine answers them `refused`. -/

namespace Sys2Proof

/-- A register address a frame may carry (30_encoding.md R91). -/
def busAddressOk (addr : BitVec Config.addrBits) : Bool := decide (addr.toNat ≤ Config.regHi.toNat)

/-- The length of a frame's data part (30_encoding.md R94). -/
def frameLengthOk (data : List Byte) : Bool := decide (data.length ≤ Config.fifoMax)

/-- The request port's buffer is 32 bytes wide (30_encoding.md R100). -/
def bufferOk (buf : List Byte) : Bool := decide (buf.length = Config.fifoMax)

/-- The checks an instruction meets when some encoding stands for it. -/
def Instr.wellFormed : Instr → Bool
  | .rRegister addr data => busAddressOk addr && frameLengthOk data
  | .wRegister addr data => busAddressOk addr && frameLengthOk data
  | .rRxPayload data => frameLengthOk data
  | .wTxPayload data => frameLengthOk data
  | .busFlushTx data => frameLengthOk data
  | .busFlushRx data => frameLengthOk data
  | .busNop data => frameLengthOk data
  | .readRegister _ => true
  | .writeRegister _ _ => true
  | .writeCommand _ => true
  | .writeRegisterBurst _ _ buf => bufferOk buf
  | .writeValidated _ _ => true
  | .init => true
  | .writeFifo _ buf => bufferOk buf
  | .readFifo _ => true
  | .flushTx => true
  | .flushRx => true
  | .clearFlags _ => true
  | .send _ buf => bufferOk buf
  | .start _ buf => bufferOk buf
  | .initiate => true
  | .endSend => true
  | .setModeBit _ => true
  | .startListening => true
  | .stopListening => true
  | .getMode => true
  | .pollReceived => true
  | .boot => true
  | .childTick => true
  | .parentTick => true

end Sys2Proof
end

