-- ==== Sys2Proof/Decode.lean ====
section
/-! DEFINITION. Decoding: total on any bytes, rejecting by name. The opcode byte of a frame is decoded by the
device (30_encoding.md R90 to R96, 45_device_interpreter.md R252), the operation code of a request by the
engine (30_encoding.md R101, R103): two instruction sets at two ports, so the port is part of what is decoded
(log 3). After the decoder, the encoder, written from the same tables. -/

namespace Sys2Proof

/-- Why bytes are no instruction. -/
inductive DecodeError
  /-- A request whose operation code is not in the table (30_encoding.md R103). -/
  | unknownOp (op : Byte)
  /-- A frame whose first byte no source gives a meaning (30_encoding.md R96). -/
  | badOpcode (op : Byte)
  /-- A frame with more than 32 data bytes (30_encoding.md R94). -/
  | frameTooLong (n : Nat)
  /-- No byte at all: no frame. -/
  | emptyFrame
deriving DecidableEq, Repr

/-- The register address in an opcode byte: its low `ADDR_BITS` bits (30_encoding.md R90). -/
def addressField (b : Byte) : Byte := (b.setWidth Config.addrBits).setWidth 8

/-- The opcode map over all 256 values of the first byte of a frame, the five fixed opcodes being parameters
(30_encoding.md R90, R93, R96; 45_device_interpreter.md R252). -/
def decodeOpcode (o : Opcodes) (b : Byte) : Option Opcode :=
  if b >>> Config.addrBits = 0b000 ∧ addressField b ≤ Config.regHi then some (.readReg (addressField b))
  else if b >>> Config.addrBits = 0b001 ∧ addressField b ≤ Config.regHi then some (.writeReg (addressField b))
  else if b = o.opcRRxPayload then some .readRx
  else if b = o.opcWTxPayload then some .writeTx
  else if b = o.opcFlushTx then some .flushTx
  else if b = o.opcFlushRx then some .flushRx
  else if b = o.opcNop then some .nop
  else none

/-- The instruction an opcode and the data bytes after it stand for. -/
def Opcode.instr : Opcode → List Byte → Instr
  | .readReg a, data => .rRegister (a.setWidth Config.addrBits) data
  | .writeReg a, data => .wRegister (a.setWidth Config.addrBits) data
  | .readRx, data => .rRxPayload data
  | .writeTx, data => .wTxPayload data
  | .flushTx, data => .busFlushTx data
  | .flushRx, data => .busFlushRx data
  | .nop, data => .busNop data

/-- Decode the bytes of one frame, from bus-select to bus-select (30_encoding.md R94). -/
def decodeFrame (o : Opcodes) : List Byte → Except DecodeError Instr
  | [] => .error .emptyFrame
  | op :: data =>
    match decodeOpcode o op with
    | none => .error (.badOpcode op)
    | some k => if data.length ≤ Config.fifoMax then .ok (k.instr data) else .error (.frameTooLong data.length)

/-- The 32-byte buffer field: bytes not driven read as 0, bytes beyond the port do not exist (log 27). -/
def requestBuffer (bytes : List Byte) : List Byte :=
  (bytes ++ List.replicate Config.fifoMax 0).take Config.fifoMax

/-- The operation a request asks for, from its five fields; fields an operation does not use are ignored
(30_encoding.md R100, R101). -/
def decodeOperation (op a d n : Byte) (buf : List Byte) : Except DecodeError Instr :=
  match op with
  | 0x01#8 => .ok (.readRegister a)
  | 0x02#8 => .ok (.writeRegister a d)
  | 0x03#8 => .ok (.writeCommand d)
  | 0x04#8 => .ok (.writeRegisterBurst a n buf)
  | 0x05#8 => .ok (.writeValidated a d)
  | 0x06#8 => .ok .init
  | 0x07#8 => .ok (.writeFifo n buf)
  | 0x08#8 => .ok (.readFifo n)
  | 0x09#8 => .ok .flushTx
  | 0x0A#8 => .ok .flushRx
  | 0x0B#8 => .ok (.clearFlags d)
  | 0x0C#8 => .ok (.send n buf)
  | 0x0D#8 => .ok (.start n buf)
  | 0x0E#8 => .ok .initiate
  | 0x0F#8 => .ok .endSend
  | 0x10#8 => .ok (.setModeBit d)
  | 0x11#8 => .ok .startListening
  | 0x12#8 => .ok .stopListening
  | 0x13#8 => .ok .getMode
  | 0x14#8 => .ok .pollReceived
  | 0x20#8 => .ok .boot
  | 0x21#8 => .ok .childTick
  | 0x22#8 => .ok .parentTick
  | _ => .error (.unknownOp op)

/-- Decode a request from the bytes of its fields in the order op, a, d, n, buf (30_encoding.md R100). -/
def decodeRequest (bytes : List Byte) : Except DecodeError Instr :=
  decodeOperation (bytes.getD 0 0) (bytes.getD 1 0) (bytes.getD 2 0) (bytes.getD 3 0) (requestBuffer (bytes.drop 4))

/-- The decoder: each port decodes its own instruction set; the five fixed opcodes are the node's. -/
def decode (o : Opcodes) : Inbound → Except DecodeError Instr
  | .request bytes => decodeRequest bytes
  | .frame bytes => decodeFrame o bytes

/-! The encoder. -/

/-- The opcode byte of a register read: `0x00 | address` (30_encoding.md R91). -/
def readOpcode (a : Byte) : Byte := Config.opcRRegisterBase ||| a

/-- The opcode byte of a register write: `0x20 | address` (30_encoding.md R91). -/
def writeOpcode (a : Byte) : Byte := Config.opcWRegisterBase ||| a

/-- The bytes of a request with operation code `op` (30_encoding.md R100). -/
def requestBytes (op a d n : Byte) (buf : List Byte) : Inbound := .request (op :: a :: d :: n :: buf)

/-- A buffer of an operation that uses none. -/
def noBuffer : List Byte := List.replicate Config.fifoMax 0

/-- The words of an instruction and the port they are presented at (30_encoding.md R91, R93, R101). -/
def encode (o : Opcodes) : Instr → Inbound
  | .rRegister addr data => .frame (readOpcode (addr.setWidth 8) :: data)
  | .wRegister addr data => .frame (writeOpcode (addr.setWidth 8) :: data)
  | .rRxPayload data => .frame (o.opcRRxPayload :: data)
  | .wTxPayload data => .frame (o.opcWTxPayload :: data)
  | .busFlushTx data => .frame (o.opcFlushTx :: data)
  | .busFlushRx data => .frame (o.opcFlushRx :: data)
  | .busNop data => .frame (o.opcNop :: data)
  | .readRegister a => requestBytes 0x01 a 0 0 noBuffer
  | .writeRegister a d => requestBytes 0x02 a d 0 noBuffer
  | .writeCommand d => requestBytes 0x03 0 d 0 noBuffer
  | .writeRegisterBurst a n buf => requestBytes 0x04 a 0 n buf
  | .writeValidated a d => requestBytes 0x05 a d 0 noBuffer
  | .init => requestBytes 0x06 0 0 0 noBuffer
  | .writeFifo n buf => requestBytes 0x07 0 0 n buf
  | .readFifo n => requestBytes 0x08 0 0 n noBuffer
  | .flushTx => requestBytes 0x09 0 0 0 noBuffer
  | .flushRx => requestBytes 0x0A 0 0 0 noBuffer
  | .clearFlags d => requestBytes 0x0B 0 d 0 noBuffer
  | .send n buf => requestBytes 0x0C 0 0 n buf
  | .start n buf => requestBytes 0x0D 0 0 n buf
  | .initiate => requestBytes 0x0E 0 0 0 noBuffer
  | .endSend => requestBytes 0x0F 0 0 0 noBuffer
  | .setModeBit d => requestBytes 0x10 0 d 0 noBuffer
  | .startListening => requestBytes 0x11 0 0 0 noBuffer
  | .stopListening => requestBytes 0x12 0 0 0 noBuffer
  | .getMode => requestBytes 0x13 0 0 0 noBuffer
  | .pollReceived => requestBytes 0x14 0 0 0 noBuffer
  | .boot => requestBytes 0x20 0 0 0 noBuffer
  | .childTick => requestBytes 0x21 0 0 0 noBuffer
  | .parentTick => requestBytes 0x22 0 0 0 noBuffer

/-! The opcode table's numbering of an instruction's bits. -/

/-- The `k` bytes of the number `w`, least significant first. -/
def wordBytes (k w : Nat) : List Byte := (List.range k).map fun i => BitVec.ofNat 8 (w >>> (8 * i))

/-- The least number of data bytes of the frame shape an opcode of the table opens (30_encoding.md R94): none for F0,
one for F1 and FN. -/
def shapeData (op : Byte) : Nat :=
  match decodeOpcode .family op with
  | some (.readReg _) | some (.writeReg _) | some .readRx | some .writeTx => 1
  | _ => 0

/-- A frame whose operand bytes beyond the given ones are 0, as long as its shape needs. -/
def zeroPaddedFrame : List Byte → List Byte
  | [] => []
  | op :: data => op :: (data ++ List.replicate (shapeData op - data.length) 0)

/-- How a word of opcode_table.json is presented to the node. Its rows of the two formats share words (the
word of W_REGISTER 0x00 is that of Boot); a word that is a request code is a request, any other a frame
(log 3). -/
def tableInbound (nbits w : Nat) : Inbound :=
  let bytes := wordBytes (max 1 (nbits / 8)) w
  match decodeRequest bytes with
  | .ok _ => .request bytes
  | .error _ => .frame (zeroPaddedFrame bytes)

/-- The instruction the decoder reads from an instruction whose bits are `w`, numbered as opcode_table.json
numbers them, under the opcodes that table lists. -/
def decodeTableWord (nbits w : Nat) : Option Instr := (decode .family (tableInbound nbits w)).toOption

end Sys2Proof
end

