-- ==== Sys2Proof/Machine/State.lean ====
section
/-! DEFINITION. The state of one node and its surroundings, as plain data: the engine (10_state.md R21 to
R27), the device (R40 to R43), the host (R45), the air (R46), the configuration inputs, and the model's own
record of what the other agents will do. INVENTORY.md lists every field with its rule and reset value. -/

namespace Sys2Proof.Machine

/-! A register file is a vector of cells, read and written by index. -/

/-- The entry at an index; none outside the file. -/
def fileGet {α : Type} {n : Nat} (v : Vector α n) (i : Nat) : Option α := v.toList[i]?

/-- The file with the entry at an index replaced; outside the file nothing is. -/
def fileSet {α : Type} {n : Nat} (v : Vector α n) (i : Nat) (x : α) : Vector α n := ⟨⟨v.toList.set i x⟩, by simp⟩

/-- The file with every entry replaced by its image. -/
def fileMap {α β : Type} {n : Nat} (f : α → β) (v : Vector α n) : Vector β n := ⟨⟨v.toList.map f⟩, by simp⟩

/-- The file with one value everywhere. -/
def fileOf {α : Type} (n : Nat) (x : α) : Vector α n := ⟨⟨List.replicate n x⟩, by simp⟩

/-- The bus-select line (10_state.md R23). -/
inductive Csn
  | asserted
  | deasserted
deriving DecidableEq, Repr

/-- The enable line (10_state.md R23). -/
inductive Ce
  | high
  | low
deriving DecidableEq, Repr

/-- One byte of the device's register file: a byte, or a byte no source specifies, so that each read is a
draw (20_memory.md R68, 45_device_interpreter.md R255; log 9). -/
inductive RegCell
  | known (b : Byte)
  | unsettled
deriving DecidableEq, Repr

/-- `dev.frame`, the frame-interpreter state (10_state.md R43 a). -/
inductive DevFrame
  | none
  | awaitOpcode
  | regRead (a : Byte) (i : Nat)
  | regWrite (a : Byte) (i : Nat)
  | rxRead (i : Nat)
  | txWrite (l : List Byte)
  | done
deriving DecidableEq, Repr

/-- An air frame (10_state.md R46). -/
structure AirFrame where
  addr : List Byte
  chan : Byte
  rate : Byte
  payload : List Byte
deriving DecidableEq, Repr

/-- A transmit burst in progress: the latched air frame (45_device_interpreter.md R269) and whether the
transmit FIFO still holds its payload (R270; log 17). -/
structure Burst where
  frame : AirFrame
  held : Bool
deriving DecidableEq, Repr

/-- What drove the device outside every description (45_device_interpreter.md R259). -/
inductive DeviceFault
  /-- The first byte of a frame was a value the engine never emits. -/
  | badOpcode (b : Byte)
  /-- A write-payload frame carried more than 32 bytes. -/
  | payloadTooLong (n : Nat)
deriving DecidableEq, Repr

/-- The device (10_state.md R40 to R43). `regs` holds one byte for each address 0x00 to 0x1D, the two `Rest`
fields the four further bytes of each 5-byte register. The cell at REG_STATUS holds no byte (R41); only
whether it is unsettled matters (log 11). -/
structure Device where
  regs : Vector RegCell 30
  txAddrRest : Vector RegCell 4
  rxAddrP0Rest : Vector RegCell 4
  dataReceived : Bool
  dataSent : Bool
  maxRetransmit : Bool
  txFifo : List (List Byte)
  rxFifo : List (List Byte)
  frame : DevFrame
  burst : Option Burst
  fault : Option DeviceFault
deriving DecidableEq, Repr

/-- Why a request is refused: the closed list of 60_exceptions.md R292. -/
inductive RefuseReason
  | unknownOp
  | busy
  | notInitialised
  | enableHigh
  | badAddress
  | badLength
  | badCommand
deriving DecidableEq, Repr

/-- The outcome field of a response (30_encoding.md R100), a refusal with its reason (60_exceptions.md R292). -/
inductive ReplyOutcome
  | ok
  | fail
  | refused (why : RefuseReason)
deriving DecidableEq, Repr

/-- A response (10_state.md R27, 30_encoding.md R100); a field an operation does not return is 0 or empty. -/
structure Reply where
  outcome : ReplyOutcome
  d : Byte
  buf : List Byte
deriving DecidableEq, Repr

/-- The serial port (10_state.md R26). `left` is the model's own form of the premise `exchange_completes`:
how many exchanges still complete, none given when all do (log 19). -/
structure SerialPort where
  shiftOut : Byte
  shiftIn : Byte
  shiftComplete : Bool
  left : Option Nat
deriving DecidableEq, Repr

/-- What a sequencer position stands in: an operation with its operands, or a raw frame (log 20). -/
inductive Task
  | op (i : Instr)
  | frame (bytes : List Byte)
deriving DecidableEq, Repr

/-- The local values of an operation (10_state.md R24, R25): the result code accumulator, the last status
byte read, the byte index inside a burst, the Child's reading (44_telemetry_loop.md R236), the caller's buffer as far as it
is filled (R27), and the result of the sub-operation that has just returned (log 33). -/
structure Locals where
  rc : Byte
  status : Byte
  index : Nat
  reading : Reading
  buf : List Byte
  result : Option Reply
deriving DecidableEq, Repr

/-- A sequencer position `(op, k, loc)` (10_state.md R24). -/
structure Position where
  task : Task
  k : Nat
  loc : Locals
deriving DecidableEq, Repr

/-- The two patterns of SoundAlert (44_telemetry_loop.md R231). -/
inductive AlertPattern
  | overThreshold
  | linkDown
deriving DecidableEq, Repr

/-- One token of the trace: an action of the bus or the lines (30_encoding.md R106; a byte the engine
discards is absent) or an output to a collaborator (44_telemetry_loop.md R231). -/
inductive TraceEvent
  | csnAssert
  | csnDeassert
  | xchg (out : Byte) (shown : Option Byte)
  | ceHigh
  | ceLow
  | wait (us : Nat)
  | boardInit
  | alert (p : AlertPattern)
deriving DecidableEq, Repr

/-- A step of an agent other than the engine (00_scope.md R12; log 13). -/
inductive EnvEvent
  /-- The device completes its burst (45_device_interpreter.md R270). -/
  | transmitComplete
  /-- A frame from elsewhere appears on the air (R274). -/
  | airAdd (f : AirFrame)
  /-- The air offers its `i`-th frame, sent under the width setting `aw`, to the device (R271, R273). -/
  | airOffer (i : Nat) (aw : Byte)
  /-- The air loses its `i`-th frame (R274). -/
  | airDrop (i : Nat)
  /-- A period of the tick source ends (60_exceptions.md R296). -/
  | tick
  /-- Something is presented to the node (30_encoding.md R103). -/
  | present (b : Inbound)
deriving DecidableEq, Repr

/-- The state of the node, its air and its schedule. -/
structure State where
  /-- Configuration inputs; no step changes them. -/
  cfg : Cfg
  /-- The register cache x[0x00..0x1D]; `none` is unwritten (10_state.md R21). -/
  cache : Vector (Option Byte) 30
  initialised : Bool
  csn : Csn
  ce : Ce
  /-- The sequencer position, innermost operation first; empty is `idle` (10_state.md R24). -/
  seq : List Position
  port : SerialPort
  /-- The request port. -/
  inbox : Option Inbound
  /-- The response port. -/
  resp : Option Reply
  dev : Device
  countdown : Nat
  tickdiv : Nat
  /-- The tick source is armed (44_telemetry_loop.md R232). -/
  tickArmed : Bool
  /-- Readings the sensor collaborator will return, first first (log 25). -/
  sensor : List Reading
  /-- Frames in flight, oldest first (10_state.md R46; log 15). -/
  air : List AirFrame
  /-- The other agents' steps in each coming gap between atomic actions (log 13). -/
  env : List (List EnvEvent)
  /-- How many free values have been drawn (log 8). -/
  draws : Nat
  /-- What happened on the bus, the lines and the outputs, newest first (log 26). -/
  trace : List TraceEvent
deriving DecidableEq, Repr

/-- Why the machine stops. -/
inductive Fault
  /-- Raised by `step` and by the meaning of a bus opcode when the device is in device fault
  (45_device_interpreter.md R259: no source says what the device then does). Safe: the machine stops where
  the device would go on in some way. -/
  | device (why : DeviceFault)
deriving DecidableEq, Repr

/-- Why an instruction has no meaning. -/
inductive Refusal
  /-- Raised by a refused arm of `exec` for an instruction not modelled yet. Safe: the machine stops. -/
  | notModelled (mnemonic : String)
deriving DecidableEq, Repr

/-- The device's register bytes at power-on, which no source states (10_state.md R44): one byte for each
address and the further bytes of the two 5-byte registers. -/
structure PowerOnBytes where
  regs : Vector Byte 30
  txAddrRest : Vector Byte 4
  rxAddrP0Rest : Vector Byte 4
deriving DecidableEq, Repr

/-- The family's power-on values, which 10_state.md R44 lists for orientation. PRESUMED, log 5: only
`State.reset` uses them. -/
def PowerOnBytes.family : PowerOnBytes where
  regs := #v[0x08, 0x3F, 0x03, 0x03, 0x03, 0x02, 0x0F, 0x0E, 0x00, 0x00, 0xE7, 0xC2, 0xC3, 0xC4, 0xC5, 0xC6,
    0xE7, 0x00, 0x00, 0x00, 0x00, 0x00, 0x00, 0x11, 0x00, 0x00, 0x00, 0x00, 0x00, 0x00]
  txAddrRest := #v[0xE7, 0xE7, 0xE7, 0xE7]
  rxAddrP0Rest := #v[0xE7, 0xE7, 0xE7, 0xE7]

/-- The device after power-on (10_state.md R44): its bytes as given but for the power-up bit of its configuration register, which is 0;
flags clear, FIFOs empty, no burst, no frame. -/
def Device.powerOn (c : Cfg) (b : PowerOnBytes) : Device where
  regs := fileSet (fileMap RegCell.known b.regs) c.regConfig.toNat
    (.known ((fileGet b.regs c.regConfig.toNat).getD 0 &&& ~~~((1 : Byte) <<< c.bitPwrUp)))
  txAddrRest := fileMap RegCell.known b.txAddrRest
  rxAddrP0Rest := fileMap RegCell.known b.rxAddrP0Rest
  dataReceived := false
  dataSent := false
  maxRetransmit := false
  txFifo := []
  rxFifo := []
  frame := .none
  burst := none
  fault := none

/-- The node after power-on (10_state.md R47, R48; 70_reset_and_hazards.md R320), for every configuration
and every power-on content of the device's registers. -/
def State.resetWith (c : Cfg) (b : PowerOnBytes) : State where
  cfg := c
  cache := fileOf 30 none
  initialised := false
  csn := .deasserted
  ce := .low
  seq := []
  port := { shiftOut := 0, shiftIn := 0, shiftComplete := false, left := none }
  inbox := none
  resp := none
  dev := Device.powerOn c b
  countdown := Config.linkMax
  tickdiv := 0
  tickArmed := false
  sensor := []
  air := []
  env := []
  draws := 0
  trace := []

/-- The machine right after reset: the node of `State.resetWith` with the bindings of log 6 and the power-on
bytes of log 5. -/
def State.reset : State := State.resetWith Cfg.reference PowerOnBytes.family

end Sys2Proof.Machine
end

