-- ==== Sys2Proof/Machine/Operands.lean ====
section
/-! DEFINITION. Operands: the field accessors of a register byte (41_transceiver_config.md R150), access to
the cache (10_state.md R21), the bytes of a payload (44_telemetry_loop.md R234), legal operand values of the
requests (30_encoding.md R102) with the order in which a refusal is reported (60_exceptions.md R298), and the
forms of a response (30_encoding.md R101). -/

namespace Sys2Proof.Machine

/-! Field accessors (41_transceiver_config.md R150). -/

/-- The mask of the field at bits `hi` down to `lo` of a byte. -/
def fieldMask (hi lo : Nat) : Byte := (((1 : Byte) <<< (hi - lo + 1)) - 1) <<< lo

/-- `get_field(v, hi, lo)`: the field, unsigned. -/
def getField (v : Byte) (hi lo : Nat) : Byte := (v &&& fieldMask hi lo) >>> lo

/-- `set_field(v, hi, lo, f)`: the bits `hi` to `lo` replaced by `f` cut to their width, the others kept. -/
def setField (v : Byte) (hi lo : Nat) (f : Byte) : Byte :=
  (v &&& ~~~(fieldMask hi lo)) ||| ((f <<< lo) &&& fieldMask hi lo)

/-! The cache (10_state.md R21). -/

/-- `x[a]`; unwritten, and every address outside the cache, is `none`. -/
def State.cached (s : State) (a : Byte) : Option Byte := (fileGet s.cache a.toNat).join

/-- `x[a] <- v`. -/
def State.setCached (s : State) (a v : Byte) : State :=
  { s with cache := fileSet s.cache a.toNat (some v) }

/-! Payloads. -/

/-- The first `n` bytes of a request's buffer (30_encoding.md R100). -/
def payload (n : Byte) (buf : List Byte) : List Byte := buf.take n.toNat

/-- The two bytes of a reading in the host's byte order (44_telemetry_loop.md R234, 20_memory.md R63 b). -/
def encode16 : Endian → Reading → List Byte
  | .little, r => [r.extractLsb' 0 8, r.extractLsb' 8 8]
  | .big, r => [r.extractLsb' 8 8, r.extractLsb' 0 8]

/-- The reading two payload bytes stand for (44_telemetry_loop.md R234). -/
def decode16 : Endian → List Byte → Reading
  | .little, b => ((b.getD 1 0).setWidth 16 <<< 8) ||| (b.getD 0 0).setWidth 16
  | .big, b => ((b.getD 0 0).setWidth 16 <<< 8) ||| (b.getD 1 0).setWidth 16

/-- A request's 32-byte buffer holding the given bytes. -/
def bufferOf (bytes : List Byte) : List Byte := requestBuffer bytes

/-! The values Init writes (41_transceiver_config.md R161, R162), assembled from the named fields. -/

/-- A field of one bit written. -/
def setBit (v : Byte) (i : Nat) (f : Byte) : Byte := setField v i i f

/-- `CRCO` for a CRC width (10_state.md R29): 0 = 8 bits, 1 = 16 bits. -/
def crcoOf (width : Nat) : Byte := if width = 16 then 1 else 0

/-- `AW` for an address width in bytes (10_state.md R31): 0b01 = 3, 0b10 = 4, 0b11 = 5. -/
def awOf (width : Nat) : Byte := BitVec.ofNat 8 (width - 2)

end Sys2Proof.Machine

namespace Sys2Proof

open Sys2Proof.Machine

/-- The role's initial mode bit (00_scope.md R8). -/
def Cfg.initMode (c : Cfg) : ModeBit :=
  match c.role with
  | .child => c.initModeChild
  | .parent => c.initModeParent

/-- `CONFIG_INIT(role)` (10_state.md R29, 41_transceiver_config.md R162): powered up, CRC on and as wide as `CRC_BITS`,
the initial mode bit, every other bit 0; 0x0E or 0x0F under the default positions. -/
def Cfg.configInit (c : Cfg) : Byte :=
  setBit (setBit (setBit (setBit 0 c.bitPwrUp 1) c.bitEnCrc 1) c.bitCrco (crcoOf Config.crcBits)) c.bitPrimRx c.initMode.bit

/-- The value of the retransmit register (10_state.md R32): count `RETR_COUNT`, delay `RETR_DELAY`. -/
def Cfg.setupRetrInit (c : Cfg) : Byte :=
  setField (setField 0 (c.loArc + 3) c.loArc Config.retrCount) (c.loArd + 3) c.loArd Config.retrDelay

/-- `AW_INIT` (10_state.md R31), the setting that nominally selects `AW_NOMINAL` bytes. -/
def Cfg.awInit (c : Cfg) : Byte := setField 0 (c.loAw + 1) c.loAw (awOf Config.awNominal)

/-- The payload width Init writes: `PAYLOAD_LEN`, whatever the layout (10_state.md R37, 41_transceiver_config.md R162,
92_eei_decisions.md D14). -/
def Cfg.rxPwInit (_ : Cfg) : Byte := Config.payloadLen

/-! The flags of the status register (10_state.md R35). -/

/-- `FLAG_TX_DS`. -/
def Cfg.flagTxDs (c : Cfg) : Byte := (1 : Byte) <<< c.bitTxDs

/-- `FLAGS_ALL`. -/
def Cfg.flagsAll (c : Cfg) : Byte :=
  ((1 : Byte) <<< c.bitRxDr) ||| ((1 : Byte) <<< c.bitTxDs) ||| ((1 : Byte) <<< c.bitMaxRt)

end Sys2Proof

namespace Sys2Proof.Machine

/-! Refusals. -/

/-- The first reason that applies, in the order given (60_exceptions.md R298 a). -/
def firstReason : List (Bool × RefuseReason) → Option RefuseReason
  | [] => none
  | (true, why) :: _ => some why
  | (false, _) :: rest => firstReason rest

/-- An operation that reads the cache before Init has returned (10_state.md R22). -/
def State.notInitialised (s : State) : Bool := !s.initialised

/-- The enable line is high (42_packet_io.md R191). -/
def State.enableHigh (s : State) : Bool := decide (s.ce = .high)

/-- An address above 0x1D (40_register_interface.md R122). -/
def addressBad (a : Byte) : Bool := decide (Config.regHi < a)

/-- A FIFO length above `FIFO_MAX` (42_packet_io.md R183). -/
def lengthBad (n : Byte) : Bool := decide (Config.fifoMax < n.toNat)

/-- A burst length other than `ADDR_LEN` (40_register_interface.md R127). -/
def burstLengthBad (n : Byte) : Bool := decide (n.toNat ≠ Config.addrLen)

/-- An opcode that is not one of the three data-less fixed commands (40_register_interface.md R126). -/
def commandBad (o : Opcodes) (b : Byte) : Bool := decide (b ≠ o.opcFlushTx ∧ b ≠ o.opcFlushRx ∧ b ≠ o.opcNop)

/-- Nothing refuses the operation. -/
def accepts (_ : State) : Option RefuseReason := none

/-- The refusal of an operation with an address operand. -/
def addressRefusal (a : Byte) (_ : State) : Option RefuseReason := firstReason [(addressBad a, .badAddress)]

/-- The refusal of WriteCommand. -/
def commandRefusal (b : Byte) (s : State) : Option RefuseReason :=
  firstReason [(commandBad s.cfg.toOpcodes b, .badCommand)]

/-- The refusal of WriteRegisterBurst. -/
def burstRefusal (a n : Byte) (_ : State) : Option RefuseReason :=
  firstReason [(addressBad a, .badAddress), (burstLengthBad n, .badLength)]

/-- The refusal of WriteFifo and ReadFifo. -/
def lengthRefusal (n : Byte) (_ : State) : Option RefuseReason := firstReason [(lengthBad n, .badLength)]

/-- The refusal of an operation that reads the cache (10_state.md R22). -/
def cacheRefusal (s : State) : Option RefuseReason := firstReason [(s.notInitialised, .notInitialised)]

/-- The refusal of Start and Send (42_packet_io.md R190, R195). -/
def startRefusal (n : Byte) (s : State) : Option RefuseReason :=
  firstReason [(s.notInitialised, .notInitialised), (s.enableHigh, .enableHigh), (lengthBad n, .badLength)]

/-- The refusal of Initiate (42_packet_io.md R192). -/
def initiateRefusal (s : State) : Option RefuseReason := firstReason [(s.enableHigh, .enableHigh)]

/-! Responses (30_encoding.md R101). -/

/-- A response with neither data byte nor buffer. -/
def Reply.plain : Reply := { outcome := .ok, d := 0, buf := [] }

/-- A response with a data byte. -/
def Reply.byte (d : Byte) : Reply := { outcome := .ok, d := d, buf := [] }

/-- A response with a buffer. -/
def Reply.bytes (l : List Byte) : Reply := { outcome := .ok, d := 0, buf := l }

/-- `ok`, or `fail` when the flag says so. -/
def Reply.failIf (f : Bool) : Reply := { outcome := if f then .fail else .ok, d := 0, buf := [] }

/-- The response of Init: the result code, `fail` unless it is 0. -/
def Reply.resultCode (rc : Byte) : Reply := { outcome := if rc = 0 then .ok else .fail, d := rc, buf := [] }

/-- The response of a refused request (60_exceptions.md R292). -/
def Reply.refusedFor (why : RefuseReason) : Reply := { outcome := .refused why, d := 0, buf := [] }

/-- The 2-bit code of an outcome (30_encoding.md R100). -/
def ReplyOutcome.code : ReplyOutcome → BitVec 2
  | .ok => 0
  | .fail => 1
  | .refused _ => 2

end Sys2Proof.Machine
end

