-- ==== Sys2Proof/Machine/Flags.lean ====
section
/-! DEFINITION. The flags of this hardware (10_state.md R35): the status byte assembled from the device's three
flags and its FIFOs (45_device_interpreter.md R261), clearing a flag by writing a one (R256), and the tests the
engine makes of a status byte (42_packet_io.md R193, 44_telemetry_loop.md R233). -/

namespace Sys2Proof.Machine

/-- A one-bit condition at a bit position of a byte. -/
def flagBit (f : Bool) (i : Nat) : Byte := if f then (1 : Byte) <<< i else 0

/-- `RX_P_NO` (R261): 0b000 when the receive FIFO holds a payload, else 0b111. -/
def pipeNumber (rxFifo : List (List Byte)) : Byte := if rxFifo = [] then 0b111 else 0b000

/-- `status_byte(dev)` (45_device_interpreter.md R261), each field at its place (10_state.md R35). -/
def Device.statusByte (c : Cfg) (d : Device) : Byte :=
  flagBit d.dataReceived c.bitRxDr ||| flagBit d.dataSent c.bitTxDs ||| flagBit d.maxRetransmit c.bitMaxRt
    ||| (pipeNumber d.rxFifo <<< c.loRxPNo) ||| flagBit (decide (d.txFifo.length = c.txDepth)) c.bitTxFull

/-- Writing the status register: each flag whose bit is 1 is cleared, the others keep their value
(45_device_interpreter.md R256). -/
def Device.clearFlags (c : Cfg) (v : Byte) (d : Device) : Device :=
  { d with
    dataReceived := d.dataReceived && !v.getLsbD c.bitRxDr
    dataSent := d.dataSent && !v.getLsbD c.bitTxDs
    maxRetransmit := d.maxRetransmit && !v.getLsbD c.bitMaxRt }

/-- The "data sent" bit of a status byte (42_packet_io.md R193). -/
def dataSentBit (c : Cfg) (s : Byte) : Bool := s.getLsbD c.bitTxDs

/-- The "data received" bit of a status byte (44_telemetry_loop.md R233). -/
def dataReceivedBit (c : Cfg) (s : Byte) : Bool := s.getLsbD c.bitRxDr

end Sys2Proof.Machine
end

