-- ==== Sys2Proof/Machine/Device.lean ====
section
/-! DEFINITION. The device (45_device_interpreter.md): its command interpreter, one definition for what a frame's
opening, each exchange and its end do (R251 to R261), and its radio steps (R268 to R274). An absent device
(R276) has no state: the functions of this file are applied to a present device only. -/

namespace Sys2Proof.Machine

/-- The byte a cell reads as; an unsettled cell reads as the draw given (20_memory.md R68). -/
def RegCell.read (draw : Byte) : RegCell → Byte
  | .known b => b
  | .unsettled => draw

/-- The two registers of five bytes (10_state.md R36). -/
def isFiveByte (c : Cfg) (a : Byte) : Bool := decide (a = c.regTxAddr ∨ a = c.regRxAddrP0)

/-- Byte `i` of register `a`, if the register has one (10_state.md R40). -/
def Device.cell (c : Cfg) (d : Device) (a : Byte) : Nat → Option RegCell
  | 0 => fileGet d.regs a.toNat
  | i + 1 =>
    if a = c.regTxAddr then fileGet d.txAddrRest i
    else if a = c.regRxAddrP0 then fileGet d.rxAddrP0Rest i
    else none

/-- Put a cell in the place of byte `i` of register `a`; a place that does not exist takes nothing. -/
def Device.setCell (c : Cfg) (d : Device) (a : Byte) (x : RegCell) : Nat → Device
  | 0 => { d with regs := fileSet d.regs a.toNat x }
  | i + 1 =>
    if a = c.regTxAddr then { d with txAddrRest := fileSet d.txAddrRest i x }
    else if a = c.regRxAddrP0 then { d with rxAddrP0Rest := fileSet d.rxAddrP0Rest i x }
    else d

/-- Every byte of register `a` becomes unsettled: later reads of it are draws (R255). -/
def Device.unsettle (c : Cfg) (d : Device) (a : Byte) : Device :=
  { d with
    regs := fileSet d.regs a.toNat .unsettled
    txAddrRest := if a = c.regTxAddr then fileOf 4 .unsettled else d.txAddrRest
    rxAddrP0Rest := if a = c.regRxAddrP0 then fileOf 4 .unsettled else d.rxAddrP0Rest }

/-- Every bit outside the ones given is 0: reserved bits (10_state.md R29 to R37). -/
def onlyBits (bits : List Nat) (v : Byte) : Bool := (List.range 8).all fun i => decide (i ∈ bits) || !v.getLsbD i

/-- The legal values of the named one-byte registers (45_device_interpreter.md R262): reserved bits 0, an address width
that has a meaning (10_state.md R31), a payload of at most 32 bytes (R37); an address 10_state.md R28 does not name has
none (20_memory.md R68). -/
def legalValue (c : Cfg) (a v : Byte) : Bool :=
  if a = c.regConfig then onlyBits c.configBits v
  else if a = c.regEnAa then onlyBits c.enAaBits v
  else if a = c.regSetupAw then onlyBits c.awBits v && decide (getField v (c.loAw + 1) c.loAw ≠ 0)
  else if a = c.regSetupRetr then onlyBits c.retrBits v
  else if a = c.regRfCh then onlyBits c.rfChBits v
  else if a = c.regRfSetup then onlyBits c.rfSetupBits v
  else if a = c.regRxPwP0 then onlyBits c.rxPwBits v && decide ((getField v (c.loRxPw + 5) c.loRxPw).toNat ≤ Config.fifoMax)
  else false

/-- The store of the `i`-th data byte of a register-write frame (R255, R256, R262, R264). Dropped at a stuck address, and
at a read-only one as the first byte; a further byte at a read-only address leaves later reads of it draws, where R255
says both that and that the store is dropped (log 36). A one-byte register takes a legal value as its first byte; a
5-byte register takes its first five bytes; what anything else leaves there no source says. -/
def Device.store (c : Cfg) (a : Byte) (i : Nat) (v : Byte) (d : Device) : Device :=
  if a ∈ c.stuck then d
  else if a ∈ c.readOnlyRegs then (if i = 0 then d else d.unsettle c a)
  else if a = c.regStatus then (if i = 0 then d.clearFlags c v else d.unsettle c a)
  else if isFiveByte c a then (if i < Config.addrLen then d.setCell c a (.known v) i else d.unsettle c a)
  else if i = 0 ∧ legalValue c a v then d.setCell c a (.known v) 0
  else d.unsettle c a

/-- The byte a register read returns in its `i`-th data exchange (R253): REG_STATUS reads as the status byte,
a register byte as itself, and a byte that is not there, or unsettled, as a draw. -/
def Device.registerByte (c : Cfg) (draw : Byte) (a : Byte) (i : Nat) (d : Device) : Byte :=
  match d.cell c a i with
  | none => draw
  | some .unsettled => draw
  | some (.known b) => if a = c.regStatus then d.statusByte c else b

/-- The byte a payload read returns in its `i`-th data exchange (R257). -/
def Device.payloadByte (draw : Byte) (i : Nat) (d : Device) : Byte :=
  match d.rxFifo with
  | [] => draw
  | head :: _ => head.getD i draw

/-- The interpreter goes on in another frame state. -/
def Device.inFrame (f : DevFrame) (d : Device) : Device := { d with frame := f }

/-! What each opcode does in the opcode exchange (R252). -/

/-- R_REGISTER opens a register read. -/
def Device.openRegisterRead (a : Byte) (d : Device) : Device := d.inFrame (.regRead a 0)

/-- W_REGISTER opens a register write. -/
def Device.openRegisterWrite (a : Byte) (d : Device) : Device := d.inFrame (.regWrite a 0)

/-- R_RX_PAYLOAD opens a payload read. -/
def Device.openPayloadRead (d : Device) : Device := d.inFrame (.rxRead 0)

/-- W_TX_PAYLOAD opens a payload write. -/
def Device.openPayloadWrite (d : Device) : Device := d.inFrame (.txWrite [])

/-- FLUSH_TX empties the transmit FIFO and recalls no burst (R254). -/
def Device.flushTx (d : Device) : Device :=
  { d with txFifo := [], burst := d.burst.map (fun b => { b with held := false }), frame := .done }

/-- FLUSH_RX empties the receive FIFO (R254). -/
def Device.flushRx (d : Device) : Device := { d with rxFifo := [], frame := .done }

/-- NOP changes nothing (R254). -/
def Device.nop (d : Device) : Device := d.inFrame .done

/-- The opcode exchange (R252); a byte outside the map is a device fault (R259). -/
def Device.openFrame (c : Cfg) (op : Byte) (d : Device) : Device :=
  match decodeOpcode c.toOpcodes op with
  | some (.readReg a) => d.openRegisterRead a
  | some (.writeReg a) => d.openRegisterWrite a
  | some .readRx => d.openPayloadRead
  | some .writeTx => d.openPayloadWrite
  | some .flushTx => d.flushTx
  | some .flushRx => d.flushRx
  | some .nop => d.nop
  | none => { d with frame := .done, fault := some (.badOpcode op) }

/-- One exchange: the byte shifted in and the device after it (R252 to R258, R260). `draw` is the free value
of this exchange. -/
def Device.exchange (c : Cfg) (draw out : Byte) (d : Device) : Byte × Device :=
  match d.frame with
  | .none => (draw, d)
  | .awaitOpcode => (d.statusByte c, d.openFrame c out)
  | .regRead a i => (d.registerByte c draw a i, d.inFrame (.regRead a (i + 1)))
  | .regWrite a i => (draw, (d.store c a i out).inFrame (.regWrite a (i + 1)))
  | .rxRead i => (d.payloadByte draw i, d.inFrame (.rxRead (i + 1)))
  | .txWrite l => (draw, d.inFrame (.txWrite (l ++ [out])))
  | .done => (draw, d)

/-- Bus-select asserted (R251). -/
def Device.select (d : Device) : Device := d.inFrame .awaitOpcode

/-- A payload written in a frame is appended when the FIFO has room, else lost (R258). -/
def Device.appendPayload (c : Cfg) (l : List Byte) (d : Device) : Device :=
  if d.txFifo.length < c.txDepth then { d with txFifo := d.txFifo ++ [l] } else d

/-- The commit actions at the end of a frame (R251, R257, R258). More than 32 payload bytes put the device in fault here,
where R258 says so, and not at the 33rd byte, as R259 can be read. DEDUCED, log 40. -/
def Device.commit (c : Cfg) (d : Device) : Device :=
  match d.frame with
  | .rxRead i => if i = 0 then d else { d with rxFifo := d.rxFifo.tail }
  | .txWrite l =>
    if l = [] then d
    else if l.length ≤ Config.fifoMax then d.appendPayload c l
    else { d with fault := some (.payloadTooLong l.length) }
  | _ => d

/-- Bus-select deasserted: commit, then no frame (R251). -/
def Device.deselect (c : Cfg) (d : Device) : Device := (d.commit c).inFrame .none

/-! Radio steps. -/

/-- The byte the device itself sees in register `a`, byte `i`; `fresh` supplies the draws of unsettled cells. -/
def Device.sample (c : Cfg) (fresh : Nat → Byte) (d : Device) (a : Byte) (i : Nat) : Byte :=
  ((d.cell c a i).getD .unsettled).read (fresh (8 * a.toNat + i))

/-- The five bytes of an address register as the device sees them. -/
def Device.sampleAddress (c : Cfg) (fresh : Nat → Byte) (d : Device) (a : Byte) : List Byte :=
  (List.range Config.addrLen).map (d.sample c fresh a)

/-- The radio is enabled: powered up (R268). -/
def Device.poweredUp (c : Cfg) (fresh : Nat → Byte) (d : Device) : Bool :=
  (d.sample c fresh c.regConfig 0).getLsbD c.bitPwrUp

/-- The device's own mode bit is receive (10_state.md R29). -/
def Device.primRx (c : Cfg) (fresh : Nat → Byte) (d : Device) : Bool :=
  (d.sample c fresh c.regConfig 0).getLsbD c.bitPrimRx

/-- Receive pipe 0 is enabled (70_reset_and_hazards.md R336: with it disabled the Parent receives nothing; 10_state.md
R38; log 37). -/
def Device.pipe0Enabled (c : Cfg) (fresh : Nat → Byte) (d : Device) : Bool :=
  (d.sample c fresh c.regEnRxAddr 0).getLsbD c.bitErxP0

/-- The air frame a burst latches: transmit address, channel, data-rate setting and the head payload (R269). -/
def Device.latched (c : Cfg) (fresh : Nat → Byte) (head : List Byte) (d : Device) : AirFrame where
  addr := d.sampleAddress c fresh c.regTxAddr
  chan := d.sample c fresh c.regRfCh 0
  rate := d.sample c fresh c.regRfSetup 0
  payload := head

/-- The transmit trigger of a CeHigh action (R269; log 18). -/
def Device.trigger (c : Cfg) (fresh : Nat → Byte) (d : Device) : Device :=
  match d.txFifo, d.burst with
  | head :: _, none =>
    if d.poweredUp c fresh ∧ ¬ d.primRx c fresh then
      { d with burst := some { frame := d.latched c fresh head, held := true } }
    else d
  | _, _ => d

/-- The end of a burst, on the device's side (R270): the payload leaves the FIFO if it is still there, the
flag is set, the burst is over. -/
def Device.finishBurst (b : Burst) (d : Device) : Device :=
  { d with txFifo := if b.held then d.txFifo.tail else d.txFifo, dataSent := true, burst := none }

/-- `addr_match` (R273): it holds when both addresses and both width settings are equal, and is open
otherwise (log 16). -/
def addrMatch (sent : List Byte) (sentAw : Byte) (own : List Byte) (ownAw : Byte) : Bool :=
  if sent = own ∧ sentAw = ownAw then true else Config.addrMatchOpen sent own ownAw

/-- A frame matches a device (R273). -/
def Device.accepts (c : Cfg) (fresh : Nat → Byte) (f : AirFrame) (aw : Byte) (d : Device) : Bool :=
  decide (f.chan = d.sample c fresh c.regRfCh 0)
    && decide (f.rate.getLsbD c.bitRfDr = (d.sample c fresh c.regRfSetup 0).getLsbD c.bitRfDr)
    && decide (f.payload.length = (getField (d.sample c fresh c.regRxPwP0 0) (c.loRxPw + 5) c.loRxPw).toNat)
    && addrMatch f.addr aw (d.sampleAddress c fresh c.regRxAddrP0) (d.sample c fresh c.regSetupAw 0)

/-- The device listens on pipe 0 (R271, 70_reset_and_hazards.md R336). -/
def Device.listening (c : Cfg) (fresh : Nat → Byte) (ce : Ce) (d : Device) : Bool :=
  d.poweredUp c fresh && d.primRx c fresh && d.pipe0Enabled c fresh && decide (ce = .high)

/-- The receive step (R271): a matching frame offered to a listening device enters the receive FIFO and sets
the flag when there is room; in every other case nothing changes. -/
def Device.receive (c : Cfg) (fresh : Nat → Byte) (ce : Ce) (f : AirFrame) (aw : Byte) (d : Device) : Device :=
  if d.listening c fresh ce && d.accepts c fresh f aw && decide (d.rxFifo.length < c.rxDepth) then
    { d with rxFifo := d.rxFifo ++ [f.payload], dataReceived := true }
  else d

/-- The frames the air carries (10_state.md R46, R42): five address bytes, 1 to 32 payload bytes. -/
def AirFrame.ok (f : AirFrame) : Bool :=
  decide (f.addr.length = Config.addrLen) && decide (1 ≤ f.payload.length) && decide (f.payload.length ≤ Config.fifoMax)

/-- The values of TransceiverMode (10_state.md R39). -/
inductive Mode
  | powerDown
  | standby
  | transmitting
  | listening
deriving DecidableEq, Repr

/-- The device's own mode (10_state.md R43 d). -/
def Device.mode (c : Cfg) (fresh : Nat → Byte) (ce : Ce) (d : Device) : Mode :=
  if ¬ d.poweredUp c fresh then .powerDown
  else if d.burst.isSome then .transmitting
  else if ce = .high ∧ d.primRx c fresh then .listening
  else .standby

end Sys2Proof.Machine
end

