-- ==== Sys2Proof/Machine/Ops.lean ====
section
/-! DEFINITION. The named operations every meaning is built from: the steps of the other agents in the gaps
between atomic actions (00_scope.md R12), the atomic actions of the engine, the sequencer's call of a
sub-operation (10_state.md R24), and the service of a request with its one way of being refused
(60_exceptions.md R292) and its response (30_encoding.md R100). This hardware has no traps and nothing saves
state (60_exceptions.md R299): `refuse` is its shared exceptional outcome, `serve` the entry of every
operation, `finishOperation` the return. -/

namespace Sys2Proof.Machine

/-! Free values (log 8). -/

/-- The free value of the next exchange. -/
def State.draw (s : State) : Byte := Config.freeByte s.draws

/-- The free values one radio step may need, for the unsettled cells it samples. -/
def State.fresh (s : State) : Nat → Byte := fun i => Config.freeByte (s.draws + i)

/-- As many draws as `State.fresh` can have used. -/
abbrev freshSpan : Nat := 256

/-! The response port and refusals. -/

/-- A refused request (60_exceptions.md R292): no action is performed and nothing changes but the response. -/
def refuse (why : RefuseReason) (s : State) : State := { s with resp := some (Reply.refusedFor why) }

/-- The return of an operation (00_scope.md R13): the response is on the port. -/
def finishOperation (r : Reply) (s : State) : State := { s with resp := some r }

/-! Steps of the other agents. -/

/-- The burst given is over and its frame on the air. -/
def completeBurst (s : State) : Option Burst → State
  | none => s
  | some b => { s with air := s.air ++ [b.frame], dev := s.dev.finishBurst b }

/-- Transmit complete (45_device_interpreter.md R270): enabled whenever a burst is in progress; the latched
frame is added to the air. -/
def transmitComplete (s : State) : State := if s.cfg.present then completeBurst s s.dev.burst else s

/-- The `i`-th frame of the air, if it is there, reaches this device or is lost. -/
def offerFrame (i : Nat) (aw : Byte) (s : State) : Option AirFrame → State
  | none => s
  | some f =>
    { s with
      air := s.air.eraseIdx i
      dev := if s.cfg.present then s.dev.receive s.cfg s.fresh s.ce f aw else s.dev
      draws := s.draws + freshSpan }

/-- The air offers a frame to this device (R271, R274): taken from the air, received or lost. -/
def airOffer (i : Nat) (aw : Byte) (s : State) : State := offerFrame i aw s s.air[i]?

/-- The tick routine of the node as a request (44_telemetry_loop.md R236, R239; 30_encoding.md R101). -/
def tickRequest (c : Cfg) : Inbound :=
  match c.role with
  | .child => encode c.toOpcodes .childTick
  | .parent => encode c.toOpcodes .parentTick

/-- A tick (60_exceptions.md R296): delivered to an armed node whose engine is idle and whose host waits; it
starts the tick routine. Any other tick is skipped. -/
def tick (s : State) : State :=
  if s.tickArmed ∧ s.seq = [] ∧ s.inbox = none then { s with inbox := some (tickRequest s.cfg) } else s

/-- Why what is presented while an operation runs is refused: the operation code is tested before the
sequencer (60_exceptions.md R298 a). -/
def busyReason : Except DecodeError Instr → RefuseReason
  | .error (.unknownOp _) => .unknownOp
  | .error _ => .busy
  | .ok _ => .busy

/-- Something is presented to the node: refused while an operation runs (30_encoding.md R103), lost when the
port is occupied. -/
def presentInbound (b : Inbound) (s : State) : State :=
  if s.seq ≠ [] then refuse (busyReason (decode s.cfg.toOpcodes b)) s
  else if s.inbox = none then { s with inbox := some b } else s

/-- One step of another agent. -/
def applyEvent (e : EnvEvent) (s : State) : State :=
  match e with
  | .transmitComplete => transmitComplete s
  | .airAdd f => if f.ok then { s with air := s.air ++ [f] } else s
  | .airOffer i aw => airOffer i aw s
  | .airDrop i => { s with air := s.air.eraseIdx i }
  | .tick => tick s
  | .present b => presentInbound b s

/-- The steps of one gap, in order. -/
def applyEvents : List EnvEvent → State → State
  | [], s => s
  | e :: rest, s => applyEvents rest (applyEvent e s)

/-- The gap in which the schedule given is what is left: its next list of steps. Once the schedule is used up
a burst in progress completes, if the premise `transmit_completes` holds of the node
(45_device_interpreter.md R275; log 12). -/
def gapOf (s : State) : List (List EnvEvent) → State
  | [] => if s.cfg.txCompletes then transmitComplete s else s
  | events :: rest => applyEvents events { s with env := rest }

/-- The gap before an atomic action (00_scope.md R12). -/
def gap (s : State) : State := gapOf s s.env

/-! The engine's operations as computations over the state: an operation returns, or is still waiting. -/

/-- What an operation that has not returned waits for (60_exceptions.md R293). -/
inductive Wait
  /-- The shift-complete wait inside an exchange. -/
  | shift
  /-- The data-sent poll of End. -/
  | poll
deriving DecidableEq, Repr

/-- A computation of the engine. -/
abbrev Eng (α : Type) := EStateM Wait State α

/-- Advance the sequencer by one action (10_state.md R24). -/
def advance : List Position → List Position
  | [] => []
  | p :: rest => { p with k := p.k + 1 } :: rest

/-- The sequencer has gone on by one action. -/
def State.advanced (s : State) : State := { s with seq := advance s.seq }

/-- An internal action: one that reads or writes engine state only (00_scope.md R12). -/
def internal (f : State → State) : Eng Unit := fun s => .ok () (f s).advanced

/-- A change of the innermost position. -/
def mapTop (f : Position → Position) : List Position → List Position
  | [] => []
  | p :: rest => f p :: rest

/-- The innermost position changed. -/
def State.withTop (f : Position → Position) (s : State) : State := { s with seq := mapTop f s.seq }

/-- The local values an operation starts with (10_state.md R25). -/
def Locals.start : Locals := { rc := 0, status := 0, index := 0, reading := 0, buf := [], result := none }

/-- The local values of the innermost position. -/
def topLocals : List Position → Locals
  | [] => Locals.start
  | p :: _ => p.loc

/-- A change of the running operation's local values (10_state.md R24). -/
def noteLocals (f : Locals → Locals) : Eng Unit := fun s =>
  .ok () (s.withTop fun p => { p with loc := f p.loc })

/-- The running operation's local values. -/
def locals : Eng Locals := fun s => .ok (topLocals s.seq) s

/-- An action that has happened: the sequencer advances and the trace has its token. -/
def State.stamped (e : TraceEvent) (s : State) : State := { s with seq := advance s.seq, trace := e :: s.trace }

/-- An atomic action with its token in the trace: first the gap, then the effect. -/
def action (e : TraceEvent) (f : State → State) : Eng Unit := fun s => .ok () ((f (gap s)).stamped e)

/-- The device's side of an action, when there is a device (45_device_interpreter.md R276). -/
def State.onDevice (s : State) (f : Device → Device) : Device := if s.cfg.present then f s.dev else s.dev

/-- The bus-select line asserted. -/
def State.selected (s : State) : State := { s with csn := .asserted, dev := s.onDevice Device.select }

/-- The bus-select line deasserted. -/
def State.deselected (s : State) : State :=
  { s with csn := .deasserted, dev := s.onDevice (Device.deselect s.cfg) }

/-- The enable line raised from the level given: from low, a burst is triggered when the device can start one
(45_device_interpreter.md R269 "rising pulse"); a line that is high already is left as it is, and nothing changes
(43_mode_controller.md R214; log 18). -/
def State.raisedFrom (s : State) : Ce → State
  | .high => s
  | .low => { s with ce := .high, dev := s.onDevice (Device.trigger s.cfg s.fresh), draws := s.draws + freshSpan }

/-- The enable line high. -/
def State.raised (s : State) : State := s.raisedFrom s.ce

/-- The enable line low. -/
def State.lowered (s : State) : State := { s with ce := .low }

/-- `CsnAssert` (00_scope.md R12; 45_device_interpreter.md R251). -/
def csnAssert : Eng Unit := action .csnAssert State.selected

/-- `CsnDeassert` (00_scope.md R12; 45_device_interpreter.md R251). -/
def csnDeassert : Eng Unit := action .csnDeassert State.deselected

/-- `CeHigh` (45_device_interpreter.md R269; log 18). -/
def ceHigh : Eng Unit := action .ceHigh State.raised

/-- `CeLow`. -/
def ceLow : Eng Unit := action .ceLow State.lowered

/-- `Wait(t)`: a step with no effect on any modelled state (00_scope.md R12). -/
def waitUs (us : Nat) : Eng Unit := action (.wait us) id

/-- The byte an exchange shifts in and the device after it: an absent device answers `ABSENT_BYTE`
(45_device_interpreter.md R276). -/
def State.answer (out : Byte) (s : State) : Byte × Device :=
  if s.cfg.present then s.dev.exchange s.cfg s.draw out else (s.cfg.absentByte, s.dev)

/-- The state after an exchange that completed. -/
def State.exchanged (shown : Bool) (out : Byte) (s : State) : State :=
  { s with
    seq := advance s.seq
    port := { shiftOut := out, shiftIn := (s.answer out).1, shiftComplete := true, left := s.port.left.map (· - 1) }
    dev := (s.answer out).2
    draws := s.draws + 1
    trace := .xchg out (if shown then some (s.answer out).1 else none) :: s.trace }

/-- The state of an exchange whose shift-complete flag is not observed (40_register_interface.md R120). That the device
is as it was before this byte, that the trace has no token of it, and that `shiftIn` keeps the byte of the exchange before
(10_state.md R26), is the model's choice: no rule says whether the device acts on a byte whose exchange never completes, or
whether the bits shifted in are there. DESIGN CHOICE, log 38. -/
def State.shifting (out : Byte) (s : State) : State :=
  { s with port := { s.port with shiftOut := out, shiftComplete := false } }

/-- An exchange once its gap is over: it completes, or the shift-complete flag is never observed. -/
def exchangeNow (shown : Bool) (out : Byte) : Eng Byte := fun s =>
  if s.port.left = some 0 then .error .shift (s.shifting out)
  else .ok (s.answer out).1 (s.exchanged shown out)

/-- `in <- Xchg(out)` (40_register_interface.md R120). `shown` says whether the engine keeps the byte shifted
in (30_encoding.md R106). No time-out: an exchange that does not complete leaves the operation waiting. -/
def xchg (shown : Bool) (out : Byte) : Eng Byte := fun s => (exchangeNow shown out).run (gap s)

/-- A byte of a burst is counted, and kept in the caller's buffer when the engine keeps it (10_state.md R24, R27). -/
def Locals.keep (shown : Bool) (v : Byte) (l : Locals) : Locals :=
  { l with index := l.index + 1, buf := if shown then l.buf ++ [v] else l.buf }

/-- An exchange inside a burst. -/
def xchgKept (shown : Bool) (out : Byte) : Eng Byte := do
  let v ← xchg shown out
  noteLocals (Locals.keep shown v)
  return v

/-- The sequencer enters an operation, stacking its position. -/
def State.entering (t : Task) (s : State) : State :=
  { s with seq := { task := t, k := 0, loc := Locals.start } :: s.seq }

/-- The innermost operation has returned: the sequencer goes on in its caller after the call. -/
def popped : List Position → List Position
  | [] => []
  | _ :: callers => advance callers

/-- The sequencer leaves the innermost operation. -/
def State.leaving (s : State) : State := { s with seq := popped s.seq }

/-- An operation that returned leaves its position; one that waits keeps it. -/
def leave {α : Type} : EStateM.Result Wait State α → EStateM.Result Wait State α
  | .ok a s => .ok a s.leaving
  | .error w s => .error w s

/-- A sub-operation, or a whole operation, performed in line: the sequencer stacks its position and, when it
returns, goes on in the caller after it (10_state.md R24). -/
def call {α : Type} (t : Task) (m : Eng α) : Eng α := fun s => leave (m.run (s.entering t))

/-- The sequencer stands at action `k` of the innermost operation. -/
def State.atAction (k : Nat) (s : State) : State := s.withTop fun p => { p with k := k }

/-- Actions of the list that do not apply are passed over: the next one is action `k` (10_state.md R24). -/
def skipTo (k : Nat) : Eng Unit := fun s => .ok () (s.atAction k)

/-- The operation waits; the sequencer goes back to action `k` (10_state.md R24: "except a polling loop, whose
rule says which k it returns to"). -/
def waitAt (k : Nat) {α : Type} : Eng α := fun s => .error .poll (s.atAction k)

/-- The operation proper, unless a reason refuses it. -/
def refusedOr (m : Eng Reply) : Option RefuseReason → Eng Reply
  | some r => pure (Reply.refusedFor r)
  | none => m

/-- The checks of an operation come before its first action (60_exceptions.md R292). -/
def guarded (why : State → Option RefuseReason) (m : Eng Reply) : Eng Reply := fun s => (refusedOr m (why s)).run s

/-- The response port is empty while an operation runs. -/
def State.unanswered (s : State) : State := { s with resp := none }

/-- An operation that returned has its response on the port; one that waits has none yet. -/
def conclude : EStateM.Result Wait State Reply → Host.Outcome State Fault Refusal
  | .ok r s => .next (finishOperation r s)
  | .error _ s => .next s

/-- The service of an operation: refused `busy` unless the sequencer is idle (30_encoding.md R103); else the
response port is emptied, the operation runs, and its response is put on the port when it returns. -/
def serve (t : Task) (m : Eng Reply) (s : State) : Host.Outcome State Fault Refusal :=
  if s.seq ≠ [] then .next (refuse .busy s)
  else conclude ((call t m).run s.unanswered)

/-- The fault that stops the machine, if the device recorded one. -/
def faultOr (s : State) : Option DeviceFault → Host.Outcome State Fault Refusal
  | some why => .fault (.device why)
  | none => .next s

/-- A device in device fault stops the machine (45_device_interpreter.md R259). -/
def stopOnDeviceFault : Host.Outcome State Fault Refusal → Host.Outcome State Fault Refusal
  | .next s => faultOr s s.dev.fault
  | .fault r => .fault r
  | .refused r => .refused r

end Sys2Proof.Machine
end

