-- ==== Sys2Proof/Machine/BusFrames.lean ====
section
/-! DEFINITION. The bus opcodes as instructions of the device (45_device_interpreter.md R252 to R259): one
whole frame presented on the serial line, its bytes exchanged in order, the bytes shifted in returned on the
response port (log 20). The interpreter itself is `Device.exchange`, which the engine's own frames go through
as well. -/

namespace Sys2Proof.Machine

/-- Exchange the bytes of a frame and keep the bytes shifted in. -/
def exchangeAll : List Byte → Eng (List Byte)
  | [] => pure []
  | b :: rest => do
    let v ← xchgKept true b
    let vs ← exchangeAll rest
    return v :: vs

/-- A raw frame: the status byte and the bytes shifted in after it. -/
def frameBody (bytes : List Byte) : Eng Reply := do
  csnAssert
  let ins ← exchangeAll bytes
  csnDeassert
  return { outcome := .ok, d := ins.headD 0, buf := ins.tail }

/-- Run one raw frame; a device fault stops the machine. -/
def runFrame (bytes : List Byte) (s : State) : Host.Outcome State Fault Refusal :=
  stopOnDeviceFault (serve (.frame bytes) (frameBody bytes) s)

/-- R_REGISTER (R253). -/
def execRRegister (addr : BitVec Config.addrBits) (data : List Byte) (s : State) : Host.Outcome State Fault Refusal :=
  runFrame (readOpcode (addr.setWidth 8) :: data) s

/-- W_REGISTER (R255, R256): any bytes at any address (log 42). -/
def execWRegister (addr : BitVec Config.addrBits) (data : List Byte) (s : State) : Host.Outcome State Fault Refusal :=
  runFrame (writeOpcode (addr.setWidth 8) :: data) s

/-- R_RX_PAYLOAD (R257). -/
def execRRxPayload (data : List Byte) (s : State) : Host.Outcome State Fault Refusal :=
  runFrame (s.cfg.opcRRxPayload :: data) s

/-- W_TX_PAYLOAD (R258). -/
def execWTxPayload (data : List Byte) (s : State) : Host.Outcome State Fault Refusal :=
  runFrame (s.cfg.opcWTxPayload :: data) s

/-- FLUSH_TX (R254). -/
def execBusFlushTx (data : List Byte) (s : State) : Host.Outcome State Fault Refusal :=
  runFrame (s.cfg.opcFlushTx :: data) s

/-- FLUSH_RX (R254). -/
def execBusFlushRx (data : List Byte) (s : State) : Host.Outcome State Fault Refusal :=
  runFrame (s.cfg.opcFlushRx :: data) s

/-- NOP (R254). -/
def execBusNop (data : List Byte) (s : State) : Host.Outcome State Fault Refusal :=
  runFrame (s.cfg.opcNop :: data) s

end Sys2Proof.Machine
end

