-- ==== Sys2Proof/Machine/RegisterInterface.lean ====
section
/-! DEFINITION. RegisterInterface (40_register_interface.md): ReadRegister, WriteRegister, WriteCommand,
WriteRegisterBurst. Of each operation: the body its rule gives, the sub-operation form composite operations
call, and the meaning of the request. -/

namespace Sys2Proof.Machine

/-- Exchange bytes in index order, the bytes shifted in discarded (20_memory.md R63 a). -/
def sendAll : List Byte → Eng Unit
  | [] => pure ()
  | b :: rest => do
    let _ ← xchgKept false b
    sendAll rest

/-- Exchange `n` filler bytes and keep the bytes shifted in (20_memory.md R63 a, 30_encoding.md R95). -/
def receiveAll : Nat → Eng (List Byte)
  | 0 => pure []
  | n + 1 => do
    let b ← xchgKept true Config.dummy
    let rest ← receiveAll n
    return b :: rest

/-! ReadRegister (R123). -/

/-- The frame of ReadRegister: the status byte is discarded, the second byte returned. -/
def readRegisterBody (a : Byte) : Eng Byte := do
  csnAssert
  let _ ← xchg true (readOpcode a)
  let v ← xchg true Config.dummy
  csnDeassert
  return v

/-- ReadRegister as a sub-operation. -/
def readRegister (a : Byte) : Eng Byte := call (.op (.readRegister a)) (readRegisterBody a)

/-- ReadRegister(a) (R122, R123). -/
def execReadRegister (a : Byte) (s : State) : Host.Outcome State Fault Refusal :=
  serve (.op (.readRegister a)) (guarded (addressRefusal a) do return Reply.byte (← readRegisterBody a)) s

/-! WriteRegister (R124). -/

/-- The frame of WriteRegister. -/
def writeRegisterBody (a d : Byte) : Eng Unit := do
  csnAssert
  let _ ← xchg false (writeOpcode a)
  let _ ← xchg false d
  csnDeassert

/-- WriteRegister as a sub-operation. -/
def writeRegister (a d : Byte) : Eng Unit := call (.op (.writeRegister a d)) (writeRegisterBody a d)

/-- WriteRegister(a, d) (R122, R124): any byte at any address, a configuration byte with power-up 0 among them, though
43_mode_controller.md R211 says that no operation clears the power-up bit. DESIGN CHOICE, log 42. -/
def execWriteRegister (a d : Byte) (s : State) : Host.Outcome State Fault Refusal :=
  serve (.op (.writeRegister a d))
    (guarded (addressRefusal a) do writeRegisterBody a d; return Reply.plain) s

/-! WriteCommand (R125, R126). -/

/-- The frame of WriteCommand: the status byte is returned. -/
def writeCommandBody (c : Byte) : Eng Byte := do
  csnAssert
  let st ← xchg true c
  csnDeassert
  return st

/-- WriteCommand as a sub-operation. -/
def writeCommand (c : Byte) : Eng Byte := call (.op (.writeCommand c)) (writeCommandBody c)

/-- WriteCommand(d) (R125, R126). -/
def execWriteCommand (d : Byte) (s : State) : Host.Outcome State Fault Refusal :=
  serve (.op (.writeCommand d)) (guarded (commandRefusal d) do return Reply.byte (← writeCommandBody d)) s

/-! WriteRegisterBurst (R127). -/

/-- The frame of WriteRegisterBurst: the opcode and the bytes given. -/
def writeRegisterBurstBody (a : Byte) (bytes : List Byte) : Eng Unit := do
  csnAssert
  let _ ← xchg false (writeOpcode a)
  sendAll bytes
  csnDeassert

/-- WriteRegisterBurst of `ADDR_LEN` bytes as a sub-operation. -/
def writeRegisterBurst (a : Byte) (bytes : List Byte) : Eng Unit :=
  call (.op (.writeRegisterBurst a (BitVec.ofNat 8 Config.addrLen) (bufferOf bytes))) (writeRegisterBurstBody a bytes)

/-- WriteRegisterBurst(a, n, buf) (R122, R127): any bytes at any address (log 42). -/
def execWriteRegisterBurst (a n : Byte) (buf : List Byte) (s : State) : Host.Outcome State Fault Refusal :=
  serve (.op (.writeRegisterBurst a n buf))
    (guarded (burstRefusal a n) do writeRegisterBurstBody a (payload n buf); return Reply.plain) s

end Sys2Proof.Machine
end

