-- ==== Sys2Proof/Machine/TransceiverConfig.lean ====
section
/-! DEFINITION. TransceiverConfig (41_transceiver_config.md): WriteValidated and Init. -/

namespace Sys2Proof.Machine

/-! WriteValidated (R156, R157). -/

/-- Write, read back, compare all 8 bits; the cache takes the byte only on a match. The result is 1 on a
mismatch, which is recorded by the caller and corrected by nobody. -/
def writeValidatedBody (a d : Byte) : Eng Bool := do
  writeRegister a d
  let v ← readRegister a
  if v = d then
    internal fun s => s.setCached a d
    return false
  else
    return true

/-- WriteValidated as a sub-operation. -/
def writeValidated (a d : Byte) : Eng Bool := call (.op (.writeValidated a d)) (writeValidatedBody a d)

/-- WriteValidated(a, d) (R156): any byte at any address. A configuration byte with power-up 0 is accepted, and the mode is
PowerDown again when it matches, though 43_mode_controller.md R211 says that no operation clears the power-up bit.
DESIGN CHOICE, log 42. -/
def execWriteValidated (a d : Byte) (s : State) : Host.Outcome State Fault Refusal :=
  serve (.op (.writeValidated a d))
    (guarded (addressRefusal a) do return Reply.failIf (← writeValidatedBody a d)) s

/-! Init (R159 to R167). -/

/-- The 30 addresses in ascending order (R160). -/
def baselineAddresses : List Byte := (List.range' Config.regLo.toNat Config.numRegs).map (BitVec.ofNat 8)

/-- The cache entry of `a` takes the byte the serial port shifted in last. -/
def State.cachedShifted (a : Byte) (s : State) : State := s.setCached a s.port.shiftIn

/-- `x[a] <- ReadRegister(a)`: the byte the read returned, which the serial port still holds as the byte it
last shifted in (10_state.md R26, 40_register_interface.md R120). -/
def cacheShifted (a : Byte) : Eng Unit := internal (State.cachedShifted a)

/-- `initialised <- true` (10_state.md R22). -/
def State.nowInitialised (s : State) : State := { s with initialised := true }

/-- The baseline read (R160): each register byte goes into the cache uncompared. -/
def readBaseline : List Byte → Eng Unit
  | [] => pure ()
  | a :: rest => do
    let _ ← readRegister a
    cacheShifted a
    readBaseline rest

/-- Bit `k` of the result code is set on a mismatch; a bit once set stays (R163). -/
def recordMismatch (k : Nat) (f : Bool) : Eng Unit :=
  noteLocals fun l => { l with rc := l.rc ||| flagBit f k }

/-- The validated write number `k` of Init (R161). -/
def configure (k : Nat) (a d : Byte) : Eng Unit := do
  let f ← writeValidated a d
  recordMismatch k f

/-- Init: baseline, then the eight writes in the fixed order, whatever the read-backs say (R159, R163). `c` is the
node's configuration. -/
def initBody (c : Cfg) : Eng Byte := do
  readBaseline baselineAddresses
  configure 0 c.regConfig c.configInit
  waitUs c.tSettle
  configure 1 c.regSetupRetr c.setupRetrInit
  configure 2 c.regSetupAw c.awInit
  configure 3 c.regRfSetup c.rfSetup
  configure 4 c.regRxPwP0 c.rxPwInit
  configure 5 c.regRfCh c.channel
  writeRegisterBurst c.regTxAddr c.pipeAddr.toList
  configure 6 c.regEnAa Config.enAaInit
  internal State.nowInitialised
  return (← locals).rc

/-- Init as a sub-operation. -/
def initialise (c : Cfg) : Eng Byte := call (.op .init) (initBody c)

/-- Init() (R159, R164). -/
def execInit (s : State) : Host.Outcome State Fault Refusal :=
  serve (.op .init) (do return Reply.resultCode (← initBody s.cfg)) s

end Sys2Proof.Machine
end

