-- ==== Sys2Proof/Machine/PacketFifo.lean ====
section
/-! DEFINITION. PacketIO, first part (42_packet_io.md section 1): WriteFifo, ReadFifo, FlushTx, FlushRx,
ClearFlags. In each body `c` is the node's configuration, which no step changes. -/

namespace Sys2Proof.Machine

/-! WriteFifo (R181, R183). -/

/-- The frame of WriteFifo; no bus activity at all for no byte. -/
def writeFifoBody (c : Cfg) (n : Byte) (buf : List Byte) : Eng Unit := do
  if n = 0 then return ()
  else
    csnAssert
    let _ ← xchg false c.opcWTxPayload
    sendAll (payload n buf)
    csnDeassert

/-- WriteFifo as a sub-operation. -/
def writeFifo (c : Cfg) (n : Byte) (buf : List Byte) : Eng Unit :=
  call (.op (.writeFifo n buf)) (writeFifoBody c n buf)

/-- WriteFifo(n, buf) (R181, R183). -/
def execWriteFifo (n : Byte) (buf : List Byte) (s : State) : Host.Outcome State Fault Refusal :=
  serve (.op (.writeFifo n buf))
    (guarded (lengthRefusal n) do writeFifoBody s.cfg n buf; return Reply.plain) s

/-! ReadFifo (R182, R183). -/

/-- The frame of ReadFifo; no bus activity at all for no byte. -/
def readFifoBody (c : Cfg) (n : Byte) : Eng (List Byte) := do
  if n = 0 then return []
  else
    csnAssert
    let _ ← xchg true c.opcRRxPayload
    let bytes ← receiveAll n.toNat
    csnDeassert
    return bytes

/-- ReadFifo as a sub-operation. -/
def readFifo (c : Cfg) (n : Byte) : Eng (List Byte) := call (.op (.readFifo n)) (readFifoBody c n)

/-- ReadFifo(n) (R182, R183). -/
def execReadFifo (n : Byte) (s : State) : Host.Outcome State Fault Refusal :=
  serve (.op (.readFifo n)) (guarded (lengthRefusal n) do return Reply.bytes (← readFifoBody s.cfg n)) s

/-! The flushes (R184, R185). -/

/-- FlushTx as a sub-operation: the flush-TX command. -/
def flushTx (c : Cfg) : Eng Byte := call (.op .flushTx) (writeCommand c.opcFlushTx)

/-- FlushTx() (R184). -/
def execFlushTx (s : State) : Host.Outcome State Fault Refusal :=
  serve (.op .flushTx) (do return Reply.byte (← writeCommand s.cfg.opcFlushTx)) s

/-- FlushRx as a sub-operation: the flush-RX command. -/
def flushRx (c : Cfg) : Eng Byte := call (.op .flushRx) (writeCommand c.opcFlushRx)

/-- FlushRx() (R185). -/
def execFlushRx (s : State) : Host.Outcome State Fault Refusal :=
  serve (.op .flushRx) (do return Reply.byte (← writeCommand s.cfg.opcFlushRx)) s

/-! ClearFlags (R186). -/

/-- A plain write of the status register; only the bits of the three flags are sent. -/
def clearFlagsBody (c : Cfg) (m : Byte) : Eng Unit := writeRegister c.regStatus (m &&& c.flagsAll)

/-- ClearFlags as a sub-operation. -/
def clearFlags (c : Cfg) (m : Byte) : Eng Unit := call (.op (.clearFlags m)) (clearFlagsBody c m)

/-- ClearFlags(d) (R186). -/
def execClearFlags (d : Byte) (s : State) : Host.Outcome State Fault Refusal :=
  serve (.op (.clearFlags d)) (do clearFlagsBody s.cfg d; return Reply.plain) s

end Sys2Proof.Machine
end

