-- ==== Sys2Proof/Machine/ModeController.lean ====
section
/-! DEFINITION. ModeController (43_mode_controller.md): the mode function, SetModeBit, StartListening,
StopListening, GetMode. -/

namespace Sys2Proof.Machine

/-- `mode(x, ce)` (10_state.md R39): a function of the cached configuration byte and the enable line. -/
def engineMode (c : Cfg) (x : Option Byte) (ce : Ce) : Mode :=
  match x with
  | none => .powerDown
  | some v =>
    if v.getLsbD c.bitPwrUp = false then .powerDown
    else if ce = .low then .standby
    else if v.getLsbD c.bitPrimRx = false then .transmitting
    else .listening

/-- The number GetMode returns (43_mode_controller.md R217). -/
def Mode.code : Mode → Byte
  | .powerDown => 0
  | .standby => 1
  | .transmitting => 2
  | .listening => 3

/-! SetModeBit (R212). -/

/-- The byte SetModeBit writes: the cached byte with the mode bit replaced. An unwritten entry, which no run
shows once `initialised` is true, reads as a free value (log 28). -/
def State.modeByte (s : State) (m : Byte) : Byte :=
  setBit ((s.cached s.cfg.regConfig).getD s.draw) s.cfg.bitPrimRx m

/-- SetModeBit: a validated write of the configuration register; the result is 1 on a mismatch. -/
def setModeBitBody (c : Cfg) (m : Byte) : Eng Bool := do
  let w := (← get).modeByte m
  writeValidated c.regConfig w

/-- SetModeBit as a sub-operation. -/
def setModeBit (c : Cfg) (m : Byte) : Eng Bool := call (.op (.setModeBit m)) (setModeBitBody c m)

/-- SetModeBit(d) (R212): only bit 0 of the operand is read. A bit 0 with the enable line high is accepted and makes the mode
Transmitting: R212 and the closed list of 60_exceptions.md R292 have no refusal for it, though R211 says that the transition
from Listening to Transmitting is made by nothing and R217 that no host observes it. DESIGN CHOICE, log 41. -/
def execSetModeBit (d : Byte) (s : State) : Host.Outcome State Fault Refusal :=
  serve (.op (.setModeBit d)) (guarded cacheRefusal do return Reply.failIf (← setModeBitBody s.cfg d)) s

/-! StartListening (R214). -/

/-- Clear the flags, set the mode bit to receive, and raise the line only if the write matched (R213). -/
def startListeningBody (c : Cfg) : Eng Reply := do
  clearFlags c c.flagsAll
  let f ← setModeBit c ModeBit.receive.bit
  if f then return Reply.failIf true
  else
    ceHigh
    return Reply.plain

/-- StartListening with its check, as the host routines call it. -/
def startListening (c : Cfg) : Eng Reply := call (.op .startListening) (guarded cacheRefusal (startListeningBody c))

/-- StartListening() (R214). -/
def execStartListening (s : State) : Host.Outcome State Fault Refusal :=
  serve (.op .startListening) (guarded cacheRefusal (startListeningBody s.cfg)) s

/-! StopListening (R215). -/

/-- The line first, the flush second; the mode bit and the flags stay. -/
def stopListeningBody (c : Cfg) : Eng Byte := do
  ceLow
  flushRx c

/-- StopListening as a sub-operation. -/
def stopListening (c : Cfg) : Eng Byte := call (.op .stopListening) (stopListeningBody c)

/-- StopListening() (R215). -/
def execStopListening (s : State) : Host.Outcome State Fault Refusal :=
  serve (.op .stopListening) (do return Reply.byte (← stopListeningBody s.cfg)) s

/-! GetMode (R217). -/

/-- GetMode() (R217): no bus activity; the mode is read from the cache and the line, and can be 2 after a SetModeBit(0) with
the line high, which R217 says no host observes. DESIGN CHOICE, log 41. -/
def execGetMode (s : State) : Host.Outcome State Fault Refusal :=
  serve (.op .getMode)
    (guarded cacheRefusal do
      let t ← get
      return Reply.byte (engineMode s.cfg (t.cached s.cfg.regConfig) t.ce).code) s

end Sys2Proof.Machine
end

