-- ==== Sys2Proof/Machine/PacketSend.lean ====
section
/-! DEFINITION. PacketIO, second part (42_packet_io.md section 2): the send path as Start, Initiate, End and
as the blocking Send. -/

namespace Sys2Proof.Machine

/-! Start (R190, R191). -/

/-- Clear the flags, set the mode bit to transmit, flush, load; nothing after a mode bit that was not taken. -/
def startBody (c : Cfg) (n : Byte) (buf : List Byte) : Eng Bool := do
  clearFlags c c.flagsAll
  let f ← setModeBit c ModeBit.transmit.bit
  if f then return true
  else
    let _ ← flushTx c
    writeFifo c n buf
    return false

/-- Start as a sub-operation of Send, whose checks are the same (R195). -/
def start (c : Cfg) (n : Byte) (buf : List Byte) : Eng Bool := call (.op (.start n buf)) (startBody c n buf)

/-- Start(n, buf) (R190). -/
def execStart (n : Byte) (buf : List Byte) (s : State) : Host.Outcome State Fault Refusal :=
  serve (.op (.start n buf)) (guarded (startRefusal n) do return Reply.failIf (← startBody s.cfg n buf)) s

/-! Initiate (R192). -/

/-- The enable pulse of at least 10 microseconds. -/
def initiateBody : Eng Unit := do
  ceHigh
  waitUs Config.cePulseMinUs
  ceLow

/-- Initiate as a sub-operation. -/
def initiate : Eng Unit := call (.op .initiate) initiateBody

/-- Initiate() (R192). -/
def execInitiate (s : State) : Host.Outcome State Fault Refusal :=
  serve (.op .initiate) (guarded initiateRefusal do initiateBody; return Reply.plain) s

/-! End (R193). -/

/-- One round of End: a no-op command; when the "data sent" bit appears, that flag alone is cleared and the
status byte returned; until then the operation waits and polls again (`resume`). -/
def endBody (c : Cfg) : Eng Byte := do
  let st ← writeCommand c.opcNop
  noteLocals fun l => { l with status := st }
  if dataSentBit c st then
    clearFlags c c.flagTxDs
    return st
  else
    waitAt 0

/-- End as a sub-operation. -/
def endSend (c : Cfg) : Eng Byte := call (.op .endSend) (endBody c)

/-- End() (R193). -/
def execEnd (s : State) : Host.Outcome State Fault Refusal :=
  serve (.op .endSend) (do return Reply.byte (← endBody s.cfg)) s

/-! Send (R195). -/

/-- Start, Initiate, End in a row; nothing after a Start that failed. -/
def sendBody (c : Cfg) (n : Byte) (buf : List Byte) : Eng Reply := do
  let f ← start c n buf
  if f then return Reply.failIf true
  else
    initiate
    let _ ← endSend c
    return Reply.plain

/-- Send with its checks, as the Child's tick calls it. -/
def send (c : Cfg) (n : Byte) (buf : List Byte) : Eng Reply :=
  call (.op (.send n buf)) (guarded (startRefusal n) (sendBody c n buf))

/-- Send(n, buf) (R195). -/
def execSend (n : Byte) (buf : List Byte) (s : State) : Host.Outcome State Fault Refusal :=
  serve (.op (.send n buf)) (guarded (startRefusal n) (sendBody s.cfg n buf)) s

end Sys2Proof.Machine
end

