-- ==== Sys2Proof/Machine/TelemetryLoop.lean ====
section
/-! DEFINITION. The host (44_telemetry_loop.md): PollReceived, Boot, ChildTick, ParentTick, and the three
collaborators of R231. -/

namespace Sys2Proof.Machine

/-! Collaborators (R231). -/

/-- An alert has sounded. -/
def State.alerted (p : AlertPattern) (s : State) : State := { s with trace := .alert p :: s.trace }

/-- `SoundAlert(pattern)`: an output event. -/
def soundAlert (p : AlertPattern) : Eng Unit := internal (State.alerted p)

/-- What the sensor returns: the next reading supplied, else a free value (log 25). -/
def State.nextReading (s : State) : Reading := s.sensor.headD (Config.freeReading s.draws)

/-- The sensor has been sampled. -/
def State.sampled (s : State) : State := { s with sensor := s.sensor.tail, draws := s.draws + 1 }

/-- `SampleSensor()`: the reading is a local value of the caller (10_state.md R24). -/
def sampleSensor : Eng Reading := do
  let t ← get
  internal State.sampled
  noteLocals fun l => { l with reading := t.nextReading }
  return t.nextReading

/-- The board is initialised: bus-select deasserted, the enable line low (70_reset_and_hazards.md R322). -/
def State.boardInitialised (s : State) : State :=
  { s with csn := .deasserted, ce := .low, dev := s.dev.inFrame .none, trace := .boardInit :: s.trace }

/-- `BoardInit()`: one action with no gap before it, though it moves both lines. 00_scope.md R12 and 44_telemetry_loop.md
R231 say neither how many atomic actions it takes nor whether another agent may step just before it. DESIGN CHOICE,
log 39. -/
def boardInit : Eng Unit := internal State.boardInitialised

/-- `Evaluate(r)` (R235): unsigned comparison with the threshold. -/
def evaluate (r : Reading) : Eng Unit :=
  if Config.threshold ≤ r.toNat then soundAlert .overThreshold else pure ()

/-! PollReceived (R233). -/

/-- One no-op command; the "data received" bit of the status byte. -/
def pollReceivedBody (c : Cfg) : Eng Bool := do
  let st ← writeCommand c.opcNop
  return dataReceivedBit c st

/-- PollReceived as a sub-operation. -/
def pollReceived (c : Cfg) : Eng Bool := call (.op .pollReceived) (pollReceivedBody c)

/-- PollReceived() (R233). -/
def execPollReceived (s : State) : Host.Outcome State Fault Refusal :=
  serve (.op .pollReceived) (do return Reply.byte (flagBit (← pollReceivedBody s.cfg) 0)) s

/-! Boot (R232; 70_reset_and_hazards.md R323). -/

/-- The tick source is armed (R232). -/
def State.armed (s : State) : State := { s with tickArmed := true }

/-- BoardInit; Init, its result not tested; on the Parent StartListening, its outcome not tested; then the
tick source is armed. -/
def bootBody (c : Cfg) : Eng Byte := do
  boardInit
  let rc ← initialise c
  noteLocals fun l => { l with rc := rc }
  if c.role = .parent then
    let _ ← startListening c
  internal State.armed
  return rc

/-- Boot() (R232). -/
def execBoot (s : State) : Host.Outcome State Fault Refusal :=
  serve (.op .boot) (do return Reply.byte (← bootBody s.cfg)) s

/-! ChildTick (R236). -/

/-- `tickdiv <- n`. -/
def State.withTickdiv (n : Nat) (s : State) : State := { s with tickdiv := n }

/-- Every `CHILD_DIV`-th tick: sample, send whatever the reading, evaluate; the outcome of the send is not
tested. -/
def childTickBody (c : Cfg) : Eng Unit := do
  let t ← get
  if t.tickdiv + 1 = c.childDiv then
    internal (State.withTickdiv 0)
    let r ← sampleSensor
    let _ ← send c Config.payloadLen (bufferOf (encode16 c.hostEndian r))
    evaluate r
  else
    internal (State.withTickdiv (t.tickdiv + 1))

/-- ChildTick() (R236). -/
def execChildTick (s : State) : Host.Outcome State Fault Refusal :=
  serve (.op .childTick) (do childTickBody s.cfg; return Reply.plain) s

/-! ParentTick (R239 to R242). -/

/-- `countdown <- n`. -/
def State.withCountdown (n : Nat) (s : State) : State := { s with countdown := n }

/-- The decrement and its zero test, before the poll (R239, R241). -/
def countTick : Eng Unit := do
  let t ← get
  internal (State.withCountdown (t.countdown - 1))
  if t.countdown - 1 = 0 then
    soundAlert .linkDown
    internal (State.withCountdown Config.linkMax)
  else skipTo 3

/-- A payload is waiting: read it, re-arm Listening, reset the countdown, evaluate (R239, R240). -/
def takePayload (c : Cfg) : Eng Unit := do
  let bytes ← readFifo c Config.payloadLen
  noteLocals fun l => { l with buf := bytes }
  let _ ← stopListening c
  let _ ← startListening c
  internal (State.withCountdown Config.linkMax)
  evaluate (decode16 c.hostEndian bytes)

/-- The Parent's tick. -/
def parentTickBody (c : Cfg) : Eng Unit := do
  countTick
  if ← pollReceived c then takePayload c

/-- ParentTick() (R239). -/
def execParentTick (s : State) : Host.Outcome State Fault Refusal :=
  serve (.op .parentTick) (do parentTickBody s.cfg; return Reply.plain) s

end Sys2Proof.Machine
end

