-- ==== Sys2Proof/Machine/Actions.lean ====
section
/-! DEFINITION. The engine one atomic action at a time (00_scope.md R12). `plan` is the action list of every operation,
by the index of the sequencer position (10_state.md R24); `act` is one step of the engine agent: the next atomic action of
the operation under way, or a move of the sequencer. The meanings of the instructions are runs of such steps
(`Laws/Actions.lean`); an operation that stands between two of its actions goes on with `act` (`resume`). -/

namespace Sys2Proof.Machine

/-- The atomic actions of the engine (00_scope.md R12). -/
inductive Action
  | csnAssert
  | csnDeassert
  /-- `Xchg(out)`; `shown` says whether the engine keeps the byte shifted in. -/
  | xchg (shown : Bool) (out : Byte)
  /-- `Xchg(out)` inside a burst. -/
  | xchgKept (shown : Bool) (out : Byte)
  | ceHigh
  | ceLow
  | wait (us : Nat)
  /-- An action that reads or writes engine or host state only. -/
  | internal (f : State → State)
  /-- The sensor is sampled (44_telemetry_loop.md R231). -/
  | sample

/-- An atomic action as a computation: what it does is what the operations' bodies do. -/
def Action.run : Action → Eng Unit
  | .csnAssert => Machine.csnAssert
  | .csnDeassert => Machine.csnDeassert
  | .xchg shown out => do let _ ← Machine.xchg shown out
  | .xchgKept shown out => do let _ ← Machine.xchgKept shown out
  | .ceHigh => Machine.ceHigh
  | .ceLow => Machine.ceLow
  | .wait us => Machine.waitUs us
  | .internal f => Machine.internal f
  | .sample => do let _ ← Machine.sampleSensor

/-- The byte an action exchanges. -/
def Action.out : Action → Option Byte
  | .xchg _ out => some out
  | .xchgKept _ out => some out
  | .csnAssert => none
  | .csnDeassert => none
  | .ceHigh => none
  | .ceLow => none
  | .wait _ => none
  | .internal _ => none
  | .sample => none

/-- What the engine does next at a sequencer position (10_state.md R24). -/
inductive Next
  /-- An atomic action. -/
  | act (a : Action)
  /-- A sub-operation is performed in line. -/
  | enter (t : Task)
  /-- Another index is the next: actions passed over, or a polling loop. -/
  | goTo (k : Nat)
  /-- The list is exhausted: the operation returns with its response. -/
  | leave (r : Reply)

/-- What is at index `k` of a list of actions; past its end the operation returns. -/
def actionAt (l : List Action) (r : Reply) (k : Nat) : Next :=
  match l[k]? with
  | some a => .act a
  | none => .leave r

/-! The frames (40_register_interface.md R123 to R127, 42_packet_io.md R181, R182). -/

/-- A frame of an opcode and data bytes, in index order. -/
def frameActions (shown : Bool) (op : Byte) (bytes : List Byte) : List Action :=
  .csnAssert :: .xchg shown op :: bytes.map (.xchgKept shown) ++ [.csnDeassert]

/-- The frame of ReadRegister. -/
def readActions (a : Byte) : List Action :=
  [.csnAssert, .xchg true (readOpcode a), .xchg true Config.dummy, .csnDeassert]

/-- The frame of WriteRegister. -/
def writeActions (a d : Byte) : List Action :=
  [.csnAssert, .xchg false (writeOpcode a), .xchg false d, .csnDeassert]

/-- A raw frame (log 20). -/
def rawActions (bytes : List Byte) : List Action := .csnAssert :: bytes.map (.xchgKept true) ++ [.csnDeassert]

/-- A FIFO frame; no bus activity at all for no byte (42_packet_io.md R183). -/
def fifoActions (n : Byte) (shown : Bool) (op : Byte) (bytes : List Byte) : List Action :=
  if n = 0 then [] else frameActions shown op bytes

/-! The composite operations. -/

/-- The sub-operation that has just returned answered `fail`. -/
def Position.failed (p : Position) : Bool := p.loc.result = some (Reply.failIf true)

/-- The response of the sub-operation that has just returned. -/
def Position.answer (p : Position) : Reply := p.loc.result.getD Reply.plain

/-- An alert for a reading of `THRESHOLD` or more, else the return (44_telemetry_loop.md R235). -/
def evaluateNext (r : Reading) : Next :=
  if Config.threshold ≤ r.toNat then .act (.internal (State.alerted .overThreshold)) else .leave Reply.plain

/-- Init once the baseline is read (41_transceiver_config.md R161): the validated writes with the wait, the transmit
address, and `initialised`. -/
def initNext (c : Cfg) (rc : Byte) : Nat → Next
  | 0 => .enter (.op (.writeValidated c.regConfig c.configInit))
  | 1 => .act (.wait c.tSettle)
  | 2 => .enter (.op (.writeValidated c.regSetupRetr c.setupRetrInit))
  | 3 => .enter (.op (.writeValidated c.regSetupAw c.awInit))
  | 4 => .enter (.op (.writeValidated c.regRfSetup c.rfSetup))
  | 5 => .enter (.op (.writeValidated c.regRxPwP0 c.rxPwInit))
  | 6 => .enter (.op (.writeValidated c.regRfCh c.channel))
  | 7 => .enter (.op (.writeRegisterBurst c.regTxAddr (BitVec.ofNat 8 Config.addrLen) (bufferOf c.pipeAddr.toList)))
  | 8 => .enter (.op (.writeValidated c.regEnAa Config.enAaInit))
  | 9 => .act (.internal State.nowInitialised)
  | _ => .leave (Reply.resultCode rc)

/-- The number of actions of the baseline read: for each address a read and a store (41_transceiver_config.md R160). -/
def baselineActions : Nat := 2 * Config.numRegs

/-- What comes next in the state `s` at the innermost position `p`, whose operation and operands are `p.task`.
The checks of a request are made before it is entered (`checks`); only StartListening and Send are also entered with
their check still to be made. -/
def plan (s : State) (p : Position) : Next :=
  match p.task with
  | .frame bytes =>
    actionAt (rawActions bytes) { outcome := .ok, d := p.loc.buf.headD 0, buf := p.loc.buf.tail } p.k
  | .op i =>
    match i with
    | .rRegister _ _ | .wRegister _ _ | .rRxPayload _ | .wTxPayload _ | .busFlushTx _ | .busFlushRx _ | .busNop _ =>
      .leave Reply.plain
    | .readRegister a => actionAt (readActions a) (Reply.byte s.port.shiftIn) p.k
    | .writeRegister a d => actionAt (writeActions a d) Reply.plain p.k
    | .writeCommand d => actionAt (frameActions true d []) (Reply.byte s.port.shiftIn) p.k
    | .writeRegisterBurst a n buf => actionAt (frameActions false (writeOpcode a) (payload n buf)) Reply.plain p.k
    | .writeValidated a d =>
      match p.k with
      | 0 => .enter (.op (.writeRegister a d))
      | 1 => .enter (.op (.readRegister a))
      | 2 => if p.answer.d = d then .act (.internal fun s => s.setCached a d) else .leave (Reply.failIf true)
      | _ => .leave Reply.plain
    | .init =>
      if p.k < baselineActions then
        if p.k % 2 = 0 then .enter (.op (.readRegister (BitVec.ofNat 8 (p.k / 2))))
        else .act (.internal (State.cachedShifted (BitVec.ofNat 8 (p.k / 2))))
      else initNext s.cfg p.loc.rc (p.k - baselineActions)
    | .writeFifo n buf => actionAt (fifoActions n false s.cfg.opcWTxPayload (payload n buf)) Reply.plain p.k
    | .readFifo n =>
      actionAt (fifoActions n true s.cfg.opcRRxPayload (List.replicate n.toNat Config.dummy)) (Reply.bytes p.loc.buf) p.k
    | .flushTx => if p.k = 0 then .enter (.op (.writeCommand s.cfg.opcFlushTx)) else .leave p.answer
    | .flushRx => if p.k = 0 then .enter (.op (.writeCommand s.cfg.opcFlushRx)) else .leave p.answer
    | .clearFlags m =>
      if p.k = 0 then .enter (.op (.writeRegister s.cfg.regStatus (m &&& s.cfg.flagsAll))) else .leave Reply.plain
    | .send n buf =>
      match p.k with
      | 0 =>
        match startRefusal n s with
        | some why => .leave (Reply.refusedFor why)
        | none => .enter (.op (.start n buf))
      | 1 => if p.failed then .leave (Reply.failIf true) else .enter (.op .initiate)
      | 2 => .enter (.op .endSend)
      | _ => .leave Reply.plain
    | .start n buf =>
      match p.k with
      | 0 => .enter (.op (.clearFlags s.cfg.flagsAll))
      | 1 => .enter (.op (.setModeBit ModeBit.transmit.bit))
      | 2 => if p.failed then .leave (Reply.failIf true) else .enter (.op .flushTx)
      | 3 => .enter (.op (.writeFifo n buf))
      | _ => .leave Reply.plain
    | .initiate => actionAt [.ceHigh, .wait Config.cePulseMinUs, .ceLow] Reply.plain p.k
    | .endSend =>
      match p.k with
      | 0 => .enter (.op (.writeCommand s.cfg.opcNop))
      | 1 => if dataSentBit s.cfg p.loc.status then .enter (.op (.clearFlags s.cfg.flagTxDs)) else .goTo 0
      | _ => .leave (Reply.byte p.loc.status)
    | .setModeBit m =>
      if p.k = 0 then .enter (.op (.writeValidated s.cfg.regConfig (s.modeByte m))) else .leave p.answer
    | .startListening =>
      match p.k with
      | 0 =>
        match cacheRefusal s with
        | some why => .leave (Reply.refusedFor why)
        | none => .enter (.op (.clearFlags s.cfg.flagsAll))
      | 1 => .enter (.op (.setModeBit ModeBit.receive.bit))
      | 2 => if p.failed then .leave (Reply.failIf true) else .act .ceHigh
      | _ => .leave Reply.plain
    | .stopListening =>
      match p.k with
      | 0 => .act .ceLow
      | 1 => .enter (.op .flushRx)
      | _ => .leave p.answer
    | .getMode => .leave (Reply.byte (engineMode s.cfg (s.cached s.cfg.regConfig) s.ce).code)
    | .pollReceived =>
      if p.k = 0 then .enter (.op (.writeCommand s.cfg.opcNop))
      else .leave (Reply.byte (flagBit (dataReceivedBit s.cfg p.answer.d) 0))
    | .boot =>
      match p.k with
      | 0 => .act (.internal State.boardInitialised)
      | 1 => .enter (.op .init)
      | k + 2 =>
        if s.cfg.role = .parent then
          match k with
          | 0 => .enter (.op .startListening)
          | 1 => .act (.internal State.armed)
          | _ => .leave (Reply.byte p.loc.rc)
        else if k = 0 then .act (.internal State.armed)
        else .leave (Reply.byte p.loc.rc)
    | .childTick =>
      match p.k with
      | 0 => .act (.internal fun s => s.withTickdiv (if s.tickdiv + 1 = s.cfg.childDiv then 0 else s.tickdiv + 1))
      | 1 => if s.tickdiv = 0 then .act .sample else .leave Reply.plain
      | 2 => .enter (.op (.send Config.payloadLen (bufferOf (encode16 s.cfg.hostEndian p.loc.reading))))
      | 3 => evaluateNext p.loc.reading
      | _ => .leave Reply.plain
    | .parentTick =>
      match p.k with
      | 0 => .act (.internal fun s => s.withCountdown (s.countdown - 1))
      | 1 => if s.countdown = 0 then .act (.internal (State.alerted .linkDown)) else .goTo 3
      | 2 => .act (.internal (State.withCountdown Config.linkMax))
      | 3 => .enter (.op .pollReceived)
      | 4 => if p.answer.d = 0 then .leave Reply.plain else .enter (.op (.readFifo Config.payloadLen))
      | 5 => .enter (.op .stopListening)
      | 6 => .enter (.op .startListening)
      | 7 => .act (.internal (State.withCountdown Config.linkMax))
      | 8 => evaluateNext (decode16 s.cfg.hostEndian p.loc.buf)
      | _ => .leave Reply.plain

/-! One step of the engine. -/

/-- The validated write of Init that ends at index `k`, counted after the baseline (41_transceiver_config.md R161). -/
def mismatchBit : Nat → Option Nat
  | 1 => some 0
  | 3 => some 1
  | 4 => some 2
  | 5 => some 3
  | 6 => some 4
  | 7 => some 5
  | 9 => some 6
  | _ => none

/-- The local values once the result of the sub-operation that returned last is taken in (10_state.md R24, R25): a
mismatch of Init is recorded, End keeps the status byte, Boot the result code, ParentTick the payload. -/
def takenIn (t : Task) (k : Nat) (r : Reply) (l : Locals) : Locals :=
  match t with
  | .op .init =>
    match mismatchBit (k - baselineActions) with
    | some j => { l with rc := l.rc ||| flagBit (decide (r.outcome = .fail)) j }
    | none => l
  | .op .endSend => if k = 1 then { l with status := r.d } else l
  | .op .boot => if k = 2 then { l with rc := r.d } else l
  | .op .parentTick => if k = 5 then { l with buf := r.buf } else l
  | _ => l

/-- The position given, the result of its last sub-operation taken in. -/
def Position.taken (p : Position) : Position :=
  match p.loc.result with
  | some r => { p with loc := { takenIn p.task p.k r p.loc with result := none } }
  | none => p

/-- The response of an operation goes to its caller, or, of a whole operation, on the response port
(10_state.md R24, R27). -/
def State.deliver (r : Reply) (s : State) : State :=
  match s.seq with
  | [] => finishOperation r s
  | _ :: _ => s.withTop fun p => { p with loc := { p.loc with result := some r } }

/-- The state a computation leaves, whether it returned or waits. -/
def after {α : Type} : EStateM.Result Wait State α → State
  | .ok _ s => s
  | .error _ s => s

/-- What comes next is done. -/
def perform (s : State) : Next → State
  | .act a => after (a.run.run s)
  | .enter t => s.entering t
  | .goTo k => s.atAction k
  | .leave r => s.leaving.deliver r

/-- What the engine does next: the plan at its innermost position, with the result of the sub-operation that has just
returned, if any, in view. -/
def nextAt (s : State) (p : Position) : Next := plan s { p.taken with loc := { p.taken.loc with result := p.loc.result } }

/-- One step of the engine agent (00_scope.md R12). An idle engine does nothing. -/
def act (s : State) : State :=
  match s.seq with
  | [] => s
  | p :: _ => perform (s.withTop Position.taken) (nextAt s p)

/-- `n` steps of the engine agent. -/
def acts : Nat → State → State
  | 0, s => s
  | n + 1, s => acts n (act s)

/-- The byte that is exchanged next, if an exchange is next. -/
def Next.out : Next → Option Byte
  | .act a => a.out
  | .enter _ => none
  | .goTo _ => none
  | .leave _ => none

/-- The byte the engine is about to exchange, if an exchange is next. -/
def exchanging (s : State) : Option Byte :=
  match s.seq with
  | [] => none
  | p :: _ => if p.loc.result = none then (plan s p).out else none

/-- The poll of End starts at this position (42_packet_io.md R193). -/
def Position.polls (p : Position) : Bool := decide (p.task = .op .endSend ∧ p.k = 0 ∧ p.loc.result = none)

/-- An accepted request, before its first action (30_encoding.md R103, log 24): the response port is emptied, the
sequencer stands at the operation's first action. -/
def accepted (t : Task) (s : State) : State := s.unanswered.entering t

end Sys2Proof.Machine
end

