-- ==== Sys2Proof/Machine/Dispatch.lean ====
section
/-! DEFINITION. The dispatch of an instruction to its meaning, one arm for each constructor of `Instr`. -/

namespace Sys2Proof.Machine

def exec (i : Instr) (s : State) : Host.Outcome State Fault Refusal :=
  match i with
  -- bus opcodes (45_device_interpreter.md)
  | .rRegister addr data => Sys2Proof.Machine.execRRegister addr data s
  | .wRegister addr data => Sys2Proof.Machine.execWRegister addr data s
  | .rRxPayload data => Sys2Proof.Machine.execRRxPayload data s
  | .wTxPayload data => Sys2Proof.Machine.execWTxPayload data s
  | .busFlushTx data => Sys2Proof.Machine.execBusFlushTx data s
  | .busFlushRx data => Sys2Proof.Machine.execBusFlushRx data s
  | .busNop data => Sys2Proof.Machine.execBusNop data s
  -- RegisterInterface (40_register_interface.md)
  | .readRegister a => Sys2Proof.Machine.execReadRegister a s
  | .writeRegister a d => Sys2Proof.Machine.execWriteRegister a d s
  | .writeCommand d => Sys2Proof.Machine.execWriteCommand d s
  | .writeRegisterBurst a n buf => Sys2Proof.Machine.execWriteRegisterBurst a n buf s
  -- TransceiverConfig (41_transceiver_config.md)
  | .writeValidated a d => Sys2Proof.Machine.execWriteValidated a d s
  | .init => Sys2Proof.Machine.execInit s
  -- PacketIO (42_packet_io.md)
  | .writeFifo n buf => Sys2Proof.Machine.execWriteFifo n buf s
  | .readFifo n => Sys2Proof.Machine.execReadFifo n s
  | .flushTx => Sys2Proof.Machine.execFlushTx s
  | .flushRx => Sys2Proof.Machine.execFlushRx s
  | .clearFlags d => Sys2Proof.Machine.execClearFlags d s
  | .send n buf => Sys2Proof.Machine.execSend n buf s
  | .start n buf => Sys2Proof.Machine.execStart n buf s
  | .initiate => Sys2Proof.Machine.execInitiate s
  | .endSend => Sys2Proof.Machine.execEnd s
  -- ModeController (43_mode_controller.md)
  | .setModeBit d => Sys2Proof.Machine.execSetModeBit d s
  | .startListening => Sys2Proof.Machine.execStartListening s
  | .stopListening => Sys2Proof.Machine.execStopListening s
  | .getMode => Sys2Proof.Machine.execGetMode s
  -- TelemetryLoop (44_telemetry_loop.md)
  | .pollReceived => Sys2Proof.Machine.execPollReceived s
  | .boot => Sys2Proof.Machine.execBoot s
  | .childTick => Sys2Proof.Machine.execChildTick s
  | .parentTick => Sys2Proof.Machine.execParentTick s

end Sys2Proof.Machine
end

