-- ==== Sys2Proof/Machine/Sequencer.lean ====
section
/-! DEFINITION. What a step does when it runs no new instruction: an operation that waits goes on waiting or
polls again (60_exceptions.md R293), an operation between two of its actions performs the next, an idle node lets the other agents step, and bytes that decode to no
instruction are rejected (30_encoding.md R103, 45_device_interpreter.md R259). -/

namespace Sys2Proof.Machine

/-- End has returned into its callers (10_state.md R24): Send returns `ok` (42_packet_io.md R195), the Child's
tick evaluates its reading and returns (44_telemetry_loop.md R236); no other operation calls End. -/
def returnInto : List Position → Reply → State → State
  | [], r, s => finishOperation r { s with seq := [] }
  | p :: callers, r, s =>
    match p.task with
    | .op (.send _ _) => returnInto callers Reply.plain s
    | .op .childTick => returnInto callers Reply.plain (after ((evaluate p.loc.reading).run s))
    | _ => returnInto callers r s

/-- One more round of End is over: it has returned into its callers, or waits on. -/
def pollOver (callers : List Position) : EStateM.Result Wait State Byte → State
  | .ok st s => returnInto callers (Reply.byte st) s
  | .error _ s => s

/-- An operation under way, at the positions given. Where the poll of End starts: one more round (42_packet_io.md R193),
run whole as a request is (log 1). Between any other two actions: the next action (00_scope.md R12), which, waiting for a
shift to complete, is the exchange that goes on waiting (40_register_interface.md R120). Idle: the other agents step. -/
def resumeAt (s : State) : List Position → State
  | [] => gap s
  | p :: callers => if p.polls then pollOver callers ((endBody s.cfg).run s) else act s

/-- A step of a node nobody has presented anything to. -/
def resume (s : State) : State := resumeAt s s.seq

/-- Bytes that decode to no instruction. A request with a code outside the table is refused (30_encoding.md
R103); a frame is run all the same, so that a present device faults (45_device_interpreter.md R259) and an
absent one answers (R276); no byte at all is no frame (log 20). -/
def reject (e : DecodeError) (b : Inbound) (s : State) : Host.Outcome State Fault Refusal :=
  match b with
  | .request _ => .next (refuse .unknownOp s)
  | .frame bytes =>
    match e with
    | .emptyFrame => .next s
    | .unknownOp _ => .next s
    | .badOpcode _ => runFrame bytes s
    | .frameTooLong _ => runFrame bytes s

/-- The request port once what stood on it is fetched. -/
def fetched (s : State) : State := { s with inbox := none }

end Sys2Proof.Machine
end

