-- ==== Sys2Proof/Machine/Step.lean ====
section
/-! DEFINITION. One step of the node. What stands on the request port is decoded and executed to its return or
its first unsatisfied wait, the other agents stepping in the gaps between its atomic actions; that run is a run of single
steps of the engine (00_scope.md R12; `act`, log 1). With nothing on the port the node waits, polls, performs the next
action of an operation that stands between two, or idles (`resume`). -/

namespace Sys2Proof.Machine

/-- What was decoded is executed, or rejected. -/
def execute (b : Inbound) (s : State) : Except DecodeError Instr → Host.Outcome State Fault Refusal
  | .ok i => exec i s
  | .error e => reject e b s

/-- A step of a node whose device is not in fault: what stands on the request port is fetched, decoded and
executed; with nothing there the node goes on (`resume`). -/
def serveInbox (s : State) : Option Inbound → Host.Outcome State Fault Refusal
  | some b => execute b (fetched s) (decode s.cfg.toOpcodes b)
  | none => .next (resume s)

/-- One step. A device in device fault stops the machine (45_device_interpreter.md R259). -/
def step (s : State) : Host.Outcome State Fault Refusal :=
  match s.dev.fault with
  | some why => .fault (.device why)
  | none => serveInbox s s.inbox

/-- The state in which the next step fetches and runs exactly the instruction of an opcode-table word
(log 2): the word stands on the request port, the sequencer is idle, and no device fault stops the step. The word is
read under the node's opcodes, which are the table's after reset (log 4). -/
def State.withFetchWord (s : State) (nbits w : Nat) : State :=
  { s with
    inbox := some (tableInbound nbits w)
    seq := []
    dev := { s.dev with fault := none } }

end Sys2Proof.Machine
end

