-- ==== Sys2Proof/Safety.lean ====
section
/-! DEFINITION. The terms claims are stated in: the spec's named premises (92_eei_decisions.md, last section),
what an operation needs in order to complete, which instruction may touch which part of the state, the framing
discipline of the bus as a property of the trace (40_register_interface.md R121), and the invariant every step
keeps. -/

namespace Sys2Proof

open Sys2Proof.Machine

/-- The constraints the spec puts on the parameters: opcodes, addresses and bit positions (00_scope.md R9), a channel, a
rate setting and a payload width the device takes (10_state.md R33, R37, 45_device_interpreter.md R262), each FIFO depth at least 1
(92_eei_decisions.md D37), and a divider of at least 1 (44_telemetry_loop.md R242). -/
def Cfg.legal (c : Cfg) : Bool :=
  c.mapped && legalValue c c.regRfCh c.channel && legalValue c c.regRfSetup c.rfSetup
    && legalValue c c.regRxPwP0 Config.payloadLen && decide (1 ≤ c.txDepth) && decide (1 ≤ c.rxDepth)
    && decide (1 ≤ c.childDiv)

end Sys2Proof

namespace Sys2Proof.Machine

/-! Premises. -/

/-- `exchange_completes` (45_device_interpreter.md R275). -/
def ExchangesComplete (s : State) : Prop := s.port.left = none

/-- `transmit_completes` (45_device_interpreter.md R275). -/
def TransmitsComplete (s : State) : Prop := s.cfg.txCompletes = true

/-- `board_ready` (70_reset_and_hazards.md R322): the lines are as BoardInit leaves them and exchanges
complete. -/
def BoardReady (s : State) : Prop := s.csn = .deasserted ∧ s.ce = .low ∧ ExchangesComplete s

/-- `pipe0_reset_matches` (10_state.md R44): the device's pipe-0 receive address is `PIPE_ADDR`. -/
def Pipe0Matches (s : State) : Prop :=
  ∀ i < Config.addrLen, s.dev.cell s.cfg s.cfg.regRxAddrP0 i = (s.cfg.pipeAddr.toList[i]?).map RegCell.known

/-- Receive pipe 0 is enabled in the register no operation of the engine writes after reset
(70_reset_and_hazards.md R336; log 37). -/
def Pipe0Enabled (s : State) : Prop :=
  ∃ b, s.dev.cell s.cfg s.cfg.regEnRxAddr 0 = some (.known b) ∧ b.getLsbD s.cfg.bitErxP0 = true

/-- The engine is idle and every exchange completes, so an operation can be requested and no exchange hangs; the opcodes,
addresses and bit positions are ones the spec allows (00_scope.md R9). -/
def Ready (s : State) : Prop := s.seq = [] ∧ ExchangesComplete s ∧ s.cfg.mapped = true

/-- No other agent steps: the schedule is empty and no burst is in progress (40_register_interface.md R129 "no
device step between them"). -/
def Quiet (s : State) : Prop := s.env = [] ∧ s.dev.burst = none

/-- The device is there and takes writes of register `a` (45_device_interpreter.md R264). -/
def Takes (s : State) (a : Byte) : Prop := s.cfg.present = true ∧ a ∉ s.cfg.stuck

/-! Outcomes. -/

/-- The instruction returns with the response given: the engine is idle again and the response is on its port
(00_scope.md R13, 30_encoding.md R100). -/
def Returns (i : Instr) (s : State) (r : Reply) (t : State) : Prop :=
  exec i s = .next t ∧ t.seq = [] ∧ t.resp = some r

/-- From this state on the engine never returns to idle (60_exceptions.md R293): an infinite run of steps, none of
which is a fault or a refusal. -/
def Hangs (s : State) : Prop :=
  ∃ run : Nat → State, run 0 = s ∧ ∀ n, (run n).seq ≠ [] ∧ step (run n) = .next (run (n + 1))

/-- `n` further steps, while each answers a next state. -/
def runSteps : Nat → State → Option State
  | 0, s => some s
  | n + 1, s =>
    match step s with
    | .next t => runSteps n t
    | .fault _ => none
    | .refused _ => none

/-- `n` ticks of the Parent, each run to its return (44_telemetry_loop.md R241). -/
def parentTicks : Nat → State → Option State
  | 0, s => some s
  | n + 1, s =>
    match exec .parentTick s with
    | .next t => parentTicks n t
    | .fault _ => none
    | .refused _ => none

/-- The instruction is a request of the engine or of its host, not a raw bus frame. -/
def isRequest : Instr → Bool
  | .rRegister _ _ => false
  | .wRegister _ _ => false
  | .rRxPayload _ => false
  | .wTxPayload _ => false
  | .busFlushTx _ => false
  | .busFlushRx _ => false
  | .busNop _ => false
  | .readRegister _ => true
  | .writeRegister _ _ => true
  | .writeCommand _ => true
  | .writeRegisterBurst _ _ _ => true
  | .writeValidated _ _ => true
  | .init => true
  | .writeFifo _ _ => true
  | .readFifo _ => true
  | .flushTx => true
  | .flushRx => true
  | .clearFlags _ => true
  | .send _ _ => true
  | .start _ _ => true
  | .initiate => true
  | .endSend => true
  | .setModeBit _ => true
  | .startListening => true
  | .stopListening => true
  | .getMode => true
  | .pollReceived => true
  | .boot => true
  | .childTick => true
  | .parentTick => true

/-- The refusal the spec gives a request presented to an idle engine, as a table (60_exceptions.md R292, in the
order of R298; 30_encoding.md R102). -/
def refusal (s : State) : Instr → Option RefuseReason
  | .readRegister a | .writeRegister a _ | .writeValidated a _ => if 0x1D#8 < a then some .badAddress else none
  | .writeRegisterBurst a n _ =>
    if 0x1D#8 < a then some .badAddress else if n ≠ 5 then some .badLength else none
  | .writeCommand d =>
    if d = s.cfg.opcFlushTx ∨ d = s.cfg.opcFlushRx ∨ d = s.cfg.opcNop then none else some .badCommand
  | .writeFifo n _ | .readFifo n => if 32#8 < n then some .badLength else none
  | .start n _ | .send n _ =>
    if s.initialised = false then some .notInitialised
    else if s.ce = .high then some .enableHigh
    else if 32#8 < n then some .badLength
    else none
  | .initiate => if s.ce = .high then some .enableHigh else none
  | .setModeBit _ | .startListening | .getMode => if s.initialised = false then some .notInitialised else none
  | .rRegister _ _ | .wRegister _ _ | .rRxPayload _ | .wTxPayload _ | .busFlushTx _ | .busFlushRx _ | .busNop _ => none
  | .init | .flushTx | .flushRx | .clearFlags _ | .endSend | .stopListening | .pollReceived => none
  | .boot | .childTick | .parentTick => none

/-! Bits of a byte. -/

/-- The byte with a bit set or cleared, every other bit kept (43_mode_controller.md R212). -/
def withBit (v : Byte) (i : Nat) (b : Bool) : Byte := if b then v ||| ((1 : Byte) <<< i) else v &&& ~~~((1 : Byte) <<< i)

/-- The byte whose bits at the positions given are 1. -/
def onesAt : List Nat → Byte
  | [] => 0
  | i :: rest => ((1 : Byte) <<< i) ||| onesAt rest

/-! The configuration sequence, as the spec tabulates it. -/

/-- The seven validated writes of Init, in order: register and value (41_transceiver_config.md R161, R162; 10_state.md
R29 to R37). -/
def initValues (c : Cfg) : List (Byte × Byte) :=
  [(c.regConfig, withBit (onesAt [c.bitPwrUp, c.bitEnCrc, c.bitCrco]) c.bitPrimRx
      (match c.role with | .child => decide (c.initModeChild = .receive) | .parent => decide (c.initModeParent = .receive))),
    (c.regSetupRetr, 0x00), (c.regSetupAw, (0b01 : Byte) <<< c.loAw), (c.regRfSetup, c.rfSetup),
    (c.regRxPwP0, 0x02), (c.regRfCh, c.channel), (c.regEnAa, 0x00)]

/-- The values the seven validated registers have after Boot: those of Init, with the mode bit receive on the Parent, which
goes on to StartListening (44_telemetry_loop.md R232, 43_mode_controller.md R214). -/
def bootValues (c : Cfg) : List (Byte × Byte) :=
  (initValues c).map fun p =>
    (p.1, if c.role = .parent ∧ p.1 = c.regConfig then withBit p.2 c.bitPrimRx true else p.2)

/-- The tokens of a frame with the bytes given, in order; what is shifted in is left out (30_encoding.md R106). -/
def frameTokens (bytes : List Byte) : List TraceEvent :=
  .csnAssert :: (bytes.map fun b => TraceEvent.xchg b none) ++ [.csnDeassert]

/-- The tokens of one validated write: the write frame, then the read frame (41_transceiver_config.md R156). -/
def validatedTokens (p : Byte × Byte) : List TraceEvent := frameTokens [0x20 ||| p.1, p.2] ++ frameTokens [0x00 ||| p.1, 0xFF]

/-- The trace of Init, oldest first (41_transceiver_config.md R159 to R161): thirty reads, the first validated write, the
settling time, five more, the transmit address, the last. -/
def initTokens (c : Cfg) : List TraceEvent :=
  (List.range 30).flatMap (fun a => frameTokens [BitVec.ofNat 8 a, 0xFF])
    ++ ((initValues c).take 1).flatMap validatedTokens ++ [.wait c.tSettle]
    ++ (((initValues c).drop 1).take 5).flatMap validatedTokens
    ++ frameTokens ((0x20 ||| c.regTxAddr) :: c.pipeAddr.toList)
    ++ ((initValues c).drop 6).flatMap validatedTokens

/-- The trace of StartListening up to the mode-bit read-back, oldest first, where `w` is the byte written
(43_mode_controller.md R214): the flags cleared, the mode bit written and read back. -/
def listenTokens (c : Cfg) (w : Byte) : List TraceEvent :=
  frameTokens [0x20 ||| c.regStatus, onesAt [c.bitRxDr, c.bitTxDs, c.bitMaxRt]] ++ validatedTokens (c.regConfig, w)

/-- The instruction opens a frame whatever the state it is accepted in, so that it exchanges at least one byte
(30_encoding.md R94 to R101). -/
def exchanges : Instr → Bool
  | .writeFifo n _ => decide (n ≠ 0)
  | .readFifo n => decide (n ≠ 0)
  | .initiate => false
  | .getMode => false
  | .childTick => false
  | .rRegister _ _ => true
  | .wRegister _ _ => true
  | .rRxPayload _ => true
  | .wTxPayload _ => true
  | .busFlushTx _ => true
  | .busFlushRx _ => true
  | .busNop _ => true
  | .readRegister _ => true
  | .writeRegister _ _ => true
  | .writeCommand _ => true
  | .writeRegisterBurst _ _ _ => true
  | .writeValidated _ _ => true
  | .init => true
  | .flushTx => true
  | .flushRx => true
  | .clearFlags _ => true
  | .send _ _ => true
  | .start _ _ => true
  | .endSend => true
  | .setModeBit _ => true
  | .startListening => true
  | .stopListening => true
  | .pollReceived => true
  | .boot => true
  | .parentTick => true

/-- The token without the byte shifted in. -/
def TraceEvent.outline : TraceEvent → TraceEvent
  | .xchg out _ => .xchg out none
  | .csnAssert => .csnAssert
  | .csnDeassert => .csnDeassert
  | .ceHigh => .ceHigh
  | .ceLow => .ceLow
  | .wait us => .wait us
  | .boardInit => .boardInit
  | .alert p => .alert p

/-! What an instruction may touch. -/

/-- The registers Init writes (41_transceiver_config.md R161). -/
def configuredRegisters (c : Cfg) : List Byte :=
  [c.regConfig, c.regSetupRetr, c.regSetupAw, c.regRfSetup, c.regRxPwP0, c.regRfCh, c.regTxAddr, c.regEnAa]

/-- The instruction may change a byte of device register `a` (20_memory.md R61): a write of its operand
address, the configuration sequence, or the mode-bit write. Clearing flags stores nothing. -/
def mayStore (c : Cfg) (a : Byte) : Instr → Bool
  | .rRegister _ _ => false
  | .wRegister addr _ => decide (addr.setWidth 8 = a)
  | .rRxPayload _ => false
  | .wTxPayload _ => false
  | .busFlushTx _ => false
  | .busFlushRx _ => false
  | .busNop _ => false
  | .readRegister _ => false
  | .writeRegister b _ => decide (b = a)
  | .writeCommand _ => false
  | .writeRegisterBurst b _ _ => decide (b = a)
  | .writeValidated b _ => decide (b = a)
  | .init => decide (a ∈ configuredRegisters c)
  | .writeFifo _ _ => false
  | .readFifo _ => false
  | .flushTx => false
  | .flushRx => false
  | .clearFlags _ => false
  | .send _ _ => decide (a = c.regConfig)
  | .start _ _ => decide (a = c.regConfig)
  | .initiate => false
  | .endSend => false
  | .setModeBit _ => decide (a = c.regConfig)
  | .startListening => decide (a = c.regConfig)
  | .stopListening => false
  | .getMode => false
  | .pollReceived => false
  | .boot => decide (a ∈ configuredRegisters c)
  | .childTick => decide (a = c.regConfig)
  | .parentTick => decide (a = c.regConfig)

/-- The instruction may change the cache entry of `a` (10_state.md R21): the baseline read, or a validated
write of `a`. -/
def mayCache (c : Cfg) (a : Byte) : Instr → Bool
  | .rRegister _ _ => false
  | .wRegister _ _ => false
  | .rRxPayload _ => false
  | .wTxPayload _ => false
  | .busFlushTx _ => false
  | .busFlushRx _ => false
  | .busNop _ => false
  | .readRegister _ => false
  | .writeRegister _ _ => false
  | .writeCommand _ => false
  | .writeRegisterBurst _ _ _ => false
  | .writeValidated b _ => decide (b = a)
  | .init => true
  | .writeFifo _ _ => false
  | .readFifo _ => false
  | .flushTx => false
  | .flushRx => false
  | .clearFlags _ => false
  | .send _ _ => decide (a = c.regConfig)
  | .start _ _ => decide (a = c.regConfig)
  | .initiate => false
  | .endSend => false
  | .setModeBit _ => decide (a = c.regConfig)
  | .startListening => decide (a = c.regConfig)
  | .stopListening => false
  | .getMode => false
  | .pollReceived => false
  | .boot => true
  | .childTick => decide (a = c.regConfig)
  | .parentTick => decide (a = c.regConfig)

/-- The instruction may leave the enable line at another level (43_mode_controller.md R218): listening is
entered or left, or the board is initialised. The pulse of Initiate ends where it began. -/
def mayMoveLine : Instr → Bool
  | .startListening => true
  | .stopListening => true
  | .boot => true
  | .parentTick => true
  | .rRegister _ _ => false
  | .wRegister _ _ => false
  | .rRxPayload _ => false
  | .wTxPayload _ => false
  | .busFlushTx _ => false
  | .busFlushRx _ => false
  | .busNop _ => false
  | .readRegister _ => false
  | .writeRegister _ _ => false
  | .writeCommand _ => false
  | .writeRegisterBurst _ _ _ => false
  | .writeValidated _ _ => false
  | .init => false
  | .writeFifo _ _ => false
  | .readFifo _ => false
  | .flushTx => false
  | .flushRx => false
  | .clearFlags _ => false
  | .send _ _ => false
  | .start _ _ => false
  | .initiate => false
  | .endSend => false
  | .setModeBit _ => false
  | .getMode => false
  | .pollReceived => false
  | .childTick => false

/-- The instruction may set or clear one of the device's three flags even when no other agent steps
(10_state.md R35): it writes the status register, or it starts a burst whose end sets a flag. -/
def mayFlag (c : Cfg) : Instr → Bool
  | .wRegister addr _ => decide (addr.setWidth 8 = c.regStatus)
  | .writeRegister a _ => decide (a = c.regStatus)
  | .writeRegisterBurst a _ _ => decide (a = c.regStatus)
  | .writeValidated a _ => decide (a = c.regStatus)
  | .clearFlags _ => true
  | .send _ _ => true
  | .start _ _ => true
  | .initiate => true
  | .endSend => true
  | .startListening => true
  | .boot => true
  | .childTick => true
  | .parentTick => true
  | .rRegister _ _ => false
  | .rRxPayload _ => false
  | .wTxPayload _ => false
  | .busFlushTx _ => false
  | .busFlushRx _ => false
  | .busNop _ => false
  | .readRegister _ => false
  | .writeCommand _ => false
  | .init => false
  | .writeFifo _ _ => false
  | .readFifo _ => false
  | .flushTx => false
  | .flushRx => false
  | .setModeBit _ => false
  | .stopListening => false
  | .getMode => false
  | .pollReceived => false

/-- The instruction may change the transmit FIFO when no other agent steps (20_memory.md R61): it loads or
flushes it, or starts a burst that takes its head. -/
def mayTxFifo (c : Cfg) : Instr → Bool
  | .wTxPayload _ => true
  | .busFlushTx _ => true
  | .writeCommand d => decide (d = c.opcFlushTx)
  | .writeFifo _ _ => true
  | .flushTx => true
  | .send _ _ => true
  | .start _ _ => true
  | .initiate => true
  | .startListening => true
  | .boot => true
  | .childTick => true
  | .parentTick => true
  | .rRegister _ _ => false
  | .wRegister _ _ => false
  | .rRxPayload _ => false
  | .busFlushRx _ => false
  | .busNop _ => false
  | .readRegister _ => false
  | .writeRegister _ _ => false
  | .writeRegisterBurst _ _ _ => false
  | .writeValidated _ _ => false
  | .init => false
  | .readFifo _ => false
  | .flushRx => false
  | .clearFlags _ => false
  | .endSend => false
  | .setModeBit _ => false
  | .stopListening => false
  | .getMode => false
  | .pollReceived => false

/-- The instruction may change the receive FIFO when no other agent steps (20_memory.md R61). -/
def mayRxFifo (c : Cfg) : Instr → Bool
  | .rRxPayload _ => true
  | .busFlushRx _ => true
  | .writeCommand d => decide (d = c.opcFlushRx)
  | .readFifo _ => true
  | .flushRx => true
  | .stopListening => true
  | .parentTick => true
  | .rRegister _ _ => false
  | .wRegister _ _ => false
  | .wTxPayload _ => false
  | .busFlushTx _ => false
  | .busNop _ => false
  | .readRegister _ => false
  | .writeRegister _ _ => false
  | .writeRegisterBurst _ _ _ => false
  | .writeValidated _ _ => false
  | .init => false
  | .writeFifo _ _ => false
  | .flushTx => false
  | .clearFlags _ => false
  | .send _ _ => false
  | .start _ _ => false
  | .initiate => false
  | .endSend => false
  | .setModeBit _ => false
  | .startListening => false
  | .getMode => false
  | .pollReceived => false
  | .boot => false
  | .childTick => false

/-! The trace. -/

/-- The bytes sent, newest first. -/
def bytesSent : List TraceEvent → List Byte
  | [] => []
  | .xchg out _ :: rest => out :: bytesSent rest
  | .csnAssert :: rest => bytesSent rest
  | .csnDeassert :: rest => bytesSent rest
  | .ceHigh :: rest => bytesSent rest
  | .ceLow :: rest => bytesSent rest
  | .wait _ :: rest => bytesSent rest
  | .boardInit :: rest => bytesSent rest
  | .alert _ :: rest => bytesSent rest

/-- The number of frames opened. -/
def framesOpened (t : List TraceEvent) : Nat := t.count .csnAssert

/-- The number of alerts of one pattern. -/
def alerts (p : AlertPattern) (t : List TraceEvent) : Nat := t.count (.alert p)

/-- Where the bus stands in a frame: none open, open without a byte, open with its opcode sent. -/
inductive FrameLevel
  | closed
  | opened
  | sending
deriving DecidableEq, Repr

/-- One token's effect on the framing; none when the token breaks the discipline
(40_register_interface.md R121 b to e). -/
def frameStep : TraceEvent → FrameLevel → Option FrameLevel
  | .csnAssert, .closed => some .opened
  | .xchg _ _, .opened => some .sending
  | .xchg _ _, .sending => some .sending
  | .csnDeassert, .sending => some .closed
  | .ceHigh, .closed => some .closed
  | .ceLow, .closed => some .closed
  | .wait _, .closed => some .closed
  | .boardInit, .closed => some .closed
  | .alert _, .closed => some .closed
  | _, _ => none

/-- The framing of a whole trace: none when some token breaks the discipline. -/
def framing : List TraceEvent → Option FrameLevel
  | [] => some .closed
  | e :: earlier => (framing earlier).bind (frameStep e)

/-! The invariant. -/

/-- A FIFO within its depth, of payloads of 1 to 32 bytes (10_state.md R42). -/
def FifoOk (depth : Nat) (q : List (List Byte)) : Prop :=
  q.length ≤ depth ∧ ∀ l ∈ q, 1 ≤ l.length ∧ l.length ≤ Config.fifoMax

/-- The operations stacked where End polls: End alone, End in Send, End in Send in the Child's tick. -/
def PollingTasks (q : List Position) : Prop :=
  q.map Position.task = [.op .endSend]
    ∨ (∃ n buf, q.map Position.task = [.op .endSend, .op (.send n buf)])
    ∨ ∃ n buf, q.map Position.task = [.op .endSend, .op (.send n buf), .op .childTick]

/-- The stack of an operation that polls: End at its first action, each caller at its call, no result pending
(10_state.md R24). -/
def PollingStack (q : List Position) : Prop :=
  PollingTasks q ∧ q.map Position.k = [0, 2, 2].take q.length ∧ ∀ p ∈ q, p.loc.result = none

/-- The operation under way has come to one of the two unbounded waits (60_exceptions.md R293): an exchange that does not
complete, or the start of a round of the poll of End. -/
def Halted : Wait → State → Prop
  | .shift, s => s.port.left = some 0 ∧ s.port.shiftComplete = false ∧ exchanging s = some s.port.shiftOut
  | .poll, s => ∃ p callers, s.seq = p :: callers ∧ p.polls = true

/-- What holds of every state between two steps.
`framed`, `select`: the framing discipline and the device's view of bus-select (40_register_interface.md R121,
45_device_interpreter.md R251). `idle`, `waiting`, `depth`: bus-select is deasserted when the sequencer is idle
and while End polls; an operation that waits waits in an exchange or in the poll of End; the stack is at most
six deep (10_state.md R24). `txFifo`, `rxFifo`, `flying`, `burst`: FIFOs and frames as 10_state.md R42, R46 say.
`filled`: the cache is populated once initialised (10_state.md R21, R22). `count`, `divide`:
44_telemetry_loop.md R242. `healthy`: no device fault (45_device_interpreter.md R259). -/
structure Inv (s : State) : Prop where
  framed : ∃ l, framing s.trace = some l ∧ (l = .closed ↔ s.csn = .deasserted)
  select : s.cfg.present = true → (s.dev.frame = .none ↔ s.csn = .deasserted)
  idle : s.seq = [] → s.csn = .deasserted
  waiting : s.seq ≠ [] → Halted .shift s ∨ (PollingStack s.seq ∧ s.csn = .deasserted)
  depth : s.seq.length ≤ 6
  txFifo : FifoOk s.cfg.txDepth s.dev.txFifo
  rxFifo : FifoOk s.cfg.rxDepth s.dev.rxFifo
  flying : ∀ f ∈ s.air, f.ok = true
  burst : ∀ b, s.dev.burst = some b → b.frame.ok = true
  filled : s.initialised = true → ∀ a ≤ Config.regHi, s.cached a ≠ none
  count : 1 ≤ s.countdown ∧ s.countdown ≤ Config.linkMax
  divide : s.tickdiv < s.cfg.childDiv
  healthy : s.dev.fault = none

end Sys2Proof.Machine
end

