-- ==== Sys2Proof/Certificates/Slice0/Obligations.lean ====
section
/-! DEFINITION. The statements for the provers. Each formalises the rule or section its docstring names;
OBLIGATIONS.json lists them. `Ready` is an idle engine whose exchanges complete, under opcodes, addresses and bit
positions the spec allows; `Quiet` is that no other agent steps; a statement without `Quiet` holds whatever the other
agents do in the gaps. Opcodes, addresses and bit positions are those of the node's configuration (00_scope.md R9). -/

open Sys2Proof Sys2Proof.Machine

/-! Encoding. -/

/-- Decoding the encoding of a well-formed instruction gives it back, whatever five fixed opcodes the node has
(30_encoding.md R91, R93, R94, R100, R101). -/
def Obligations.DecodeEncodeRoundTrip : Prop :=
  ∀ (o : Opcodes) (i : Instr), o.ok = true → i.wellFormed = true → decode o (encode o i) = .ok i

/-- What decodes is well formed, and a frame's bytes have one meaning: encoding the decoded frame gives the bytes
back (30_encoding.md R93 "the first byte of a frame decodes without ambiguity", R94, R100). -/
def Obligations.DecodedIsWellFormedAndUnambiguous : Prop :=
  ∀ o : Opcodes, o.ok = true →
    (∀ b i, decode o b = .ok i → i.wellFormed = true) ∧
    (∀ bytes i, decode o (.frame bytes) = .ok i → encode o i = .frame bytes)

/-- Words written out from the spec's encodings decode to the instructions they stand for (30_encoding.md R90, R93,
R101; example trace of R106), under the five opcodes opcode_table.json lists: those are defaults (log 4). -/
def Obligations.DecodeSpecWords : Prop :=
  decode .family (.frame [0b00000111, 0xFF]) = .ok (.rRegister 0x07 [0xFF]) ∧
  decode .family (.frame [0b00100101, 0x4C]) = .ok (.wRegister 0x05 [0x4C]) ∧
  decode .family (.frame [0b00111101, 0x00]) = .ok (.wRegister 0x1D [0x00]) ∧
  decode .family (.frame [0b01100001, 0xFF, 0xFF]) = .ok (.rRxPayload [0xFF, 0xFF]) ∧
  decode .family (.frame [0b10100000, 0xFB, 0x02]) = .ok (.wTxPayload [0xFB, 0x02]) ∧
  decode .family (.frame [0b11100001]) = .ok (.busFlushTx []) ∧
  decode .family (.frame [0b11100010]) = .ok (.busFlushRx []) ∧
  decode .family (.frame [0b11111111]) = .ok (.busNop []) ∧
  decode .family (.request [0x02, 0x05, 0x4C]) = .ok (.writeRegister 0x05 0x4C) ∧
  decode .family (.request [0x22]) = .ok .parentTick

/-- The opcode map over all 256 values of the first byte of a frame (30_encoding.md R96), under any five fixed opcodes
R93 allows. -/
def Obligations.FirstByteMap : Prop :=
  ∀ (o : Opcodes) (op : Byte) (data : List Byte), o.ok = true → data.length ≤ 32 →
    (op ≤ 0x1D → decode o (.frame (op :: data)) = .ok (.rRegister (op.setWidth 5) data)) ∧
    (0x20#8 ≤ op ∧ op ≤ 0x3D → decode o (.frame (op :: data)) = .ok (.wRegister ((op - 0x20).setWidth 5) data)) ∧
    (op = o.opcRRxPayload → decode o (.frame (op :: data)) = .ok (.rRxPayload data)) ∧
    (op = o.opcWTxPayload → decode o (.frame (op :: data)) = .ok (.wTxPayload data)) ∧
    (op = o.opcFlushTx → decode o (.frame (op :: data)) = .ok (.busFlushTx data)) ∧
    (op = o.opcFlushRx → decode o (.frame (op :: data)) = .ok (.busFlushRx data)) ∧
    (op = o.opcNop → decode o (.frame (op :: data)) = .ok (.busNop data)) ∧
    (0x1D#8 < op → ¬ (0x20#8 ≤ op ∧ op ≤ 0x3D) → op ≠ o.opcRRxPayload → op ≠ o.opcWTxPayload → op ≠ o.opcFlushTx →
      op ≠ o.opcFlushRx → op ≠ o.opcNop → decode o (.frame (op :: data)) = .error (.badOpcode op))

/-- A request whose code is not in the table is refused `unknown_op`, whatever its other fields and whether or not the
engine is idle; any other request presented while the sequencer is not idle is refused `busy`; neither changes anything
else (30_encoding.md R103, 60_exceptions.md R298 a). -/
def Obligations.UnknownCodesAreRefused : Prop :=
  (∀ (s : State) (op : Byte) (rest : List Byte),
    op = 0x00 ∨ (0x15#8 ≤ op ∧ op ≤ 0x1F) ∨ 0x23#8 ≤ op →
    s.dev.fault = none → s.inbox = some (.request (op :: rest)) →
    step s = .next { s with inbox := none, resp := some { outcome := .refused .unknownOp, d := 0, buf := [] } }) ∧
  (∀ (s : State) (op : Byte) (rest : List Byte),
    (0x01#8 ≤ op ∧ op ≤ 0x14) ∨ (0x20#8 ≤ op ∧ op ≤ 0x22) → s.seq ≠ [] →
    s.dev.fault = none → s.inbox = some (.request (op :: rest)) →
    step s = .next { s with inbox := none, resp := some { outcome := .refused .busy, d := 0, buf := [] } })

/-! Steps. -/

/-- A step runs the instruction that stands decoded on the request port, on the state with the port emptied
(30_encoding.md R100, 10_state.md R27). That one step runs it whole, to its return or its first unsatisfied wait, is the
model's choice (log 1): 00_scope.md R12 makes each atomic action a step, and `EngineNeverFaultsTheDevice` says that the
whole run is a run of those. The second clause is the model's own: the word of the opcode table placed by
`withFetchWord` (log 2), presented at the port `decodeTableWord` chooses (log 3), under the opcodes that table lists
(log 4), is such an instruction. The third: an operation that stands between two of its actions goes on by one action. -/
def Obligations.StepRunsDecodedInstruction : Prop :=
  (∀ (s : State) (b : Inbound) (i : Instr),
    s.dev.fault = none → s.inbox = some b → decode s.cfg.toOpcodes b = .ok i → step s = exec i { s with inbox := none }) ∧
  (∀ (s : State) (nbits w : Nat) (i : Instr), s.cfg.toOpcodes = Opcodes.family → decodeTableWord nbits w = some i →
    step (s.withFetchWord nbits w) =
      exec i { s with inbox := none, seq := [], dev := { s.dev with fault := none } }) ∧
  (∀ (s : State) (p : Position) (callers : List Position), s.dev.fault = none → s.inbox = none → s.seq = p :: callers →
    p.polls = false → step s = .next (act s))

/-! The device's instruction set. -/

/-- The status byte (45_device_interpreter.md R261), each field at its place (10_state.md R35); its other bits are 0. -/
def Obligations.StatusByteBits : Prop :=
  ∀ (c : Cfg) (d : Device), c.mapped = true →
    (d.statusByte c).getLsbD c.bitRxDr = d.dataReceived ∧
    (d.statusByte c).getLsbD c.bitTxDs = d.dataSent ∧
    (d.statusByte c).getLsbD c.bitMaxRt = d.maxRetransmit ∧
    getField (d.statusByte c) (c.loRxPNo + 2) c.loRxPNo = (if d.rxFifo = [] then 0b111 else 0b000) ∧
    (d.statusByte c).getLsbD c.bitTxFull = decide (d.txFifo.length = c.txDepth) ∧
    ∀ i < 8, i ∉ c.statusBits → (d.statusByte c).getLsbD i = false

/-- R_REGISTER: the status byte, then the bytes of the register in order; nothing of the device changes
(45_device_interpreter.md R252, R253). -/
def Obligations.BusRegisterRead : Prop :=
  ∀ (s : State) (addr : BitVec 5) (data : List Byte),
    Ready s → Quiet s → s.cfg.present = true → s.dev.fault = none → busAddressOk addr = true →
    ∃ t bytes, Returns (.rRegister addr data) s { outcome := .ok, d := s.dev.statusByte s.cfg, buf := bytes } t ∧
      bytes.length = data.length ∧
      t.dev = { s.dev with frame := .none } ∧ t.cache = s.cache ∧ t.csn = .deasserted ∧ t.ce = s.ce ∧ t.air = s.air ∧
      (addr.setWidth 8 ≠ s.cfg.regStatus → ∀ i < data.length, ∀ b,
        s.dev.cell s.cfg (addr.setWidth 8) i = some (.known b) → bytes[i]? = some b) ∧
      (addr.setWidth 8 = s.cfg.regStatus → 0 < data.length → ∀ b, s.dev.cell s.cfg (addr.setWidth 8) 0 = some (.known b) →
        bytes[0]? = some (s.dev.statusByte s.cfg))

/-- W_REGISTER (45_device_interpreter.md R255, R256, R262, R264), whatever the other agents do as far as the register
bytes go: a stuck address drops the frame, a read-only one the first byte; a named one-byte register takes a legal byte;
a 5-byte register takes its first bytes and keeps those not written; one byte too many (at a read-only address that is
log 36), or an illegal value, makes later reads draws; the status register clears the flags whose bits are 1 and stores
nothing. Every other register is unchanged. -/
def Obligations.BusRegisterWrite : Prop :=
  ∀ (s : State) (addr : BitVec 5) (data : List Byte) (a : Byte), a = addr.setWidth 8 →
    Ready s → s.cfg.present = true → s.dev.fault = none → busAddressOk addr = true →
    ∃ t r, Returns (.wRegister addr data) s r t ∧ r.outcome = .ok ∧ r.buf.length = data.length ∧
      t.cache = s.cache ∧ t.csn = .deasserted ∧ t.ce = s.ce ∧
      (∀ b ≠ a, ∀ i, t.dev.cell s.cfg b i = s.dev.cell s.cfg b i) ∧
      (a ∈ s.cfg.stuck ∨ (a ∈ s.cfg.readOnlyRegs ∧ data.length ≤ 1) → ∀ i, t.dev.cell s.cfg a i = s.dev.cell s.cfg a i) ∧
      (a ∉ s.cfg.stuck → isFiveByte s.cfg a = false → 2 ≤ data.length → t.dev.cell s.cfg a 0 = some .unsettled) ∧
      (a ∉ s.cfg.stuck → a ∉ s.cfg.readOnlyRegs →
        (a ≠ s.cfg.regStatus → isFiveByte s.cfg a = false → ∀ v, data = [v] → legalValue s.cfg a v = true →
          t.dev.cell s.cfg a 0 = some (.known v)) ∧
        (a ≠ s.cfg.regStatus → isFiveByte s.cfg a = false → ∀ v, data = [v] → legalValue s.cfg a v = false →
          t.dev.cell s.cfg a 0 = some .unsettled) ∧
        (isFiveByte s.cfg a = true → data.length ≤ 5 → ∀ i < 5,
          t.dev.cell s.cfg a i = if h : i < data.length then some (.known data[i]) else s.dev.cell s.cfg a i) ∧
        (isFiveByte s.cfg a = true → 5 < data.length → ∀ i < 5, t.dev.cell s.cfg a i = some .unsettled) ∧
        (a = s.cfg.regStatus → Quiet s → ∀ v, data = [v] →
          t.dev.dataReceived = (s.dev.dataReceived && !v.getLsbD s.cfg.bitRxDr) ∧
          t.dev.dataSent = (s.dev.dataSent && !v.getLsbD s.cfg.bitTxDs) ∧
          t.dev.maxRetransmit = (s.dev.maxRetransmit && !v.getLsbD s.cfg.bitMaxRt) ∧
          ∀ i, t.dev.cell s.cfg a i = s.dev.cell s.cfg a i))

/-- R_RX_PAYLOAD: the bytes of the head of the receive FIFO in order; the head is removed when the frame ends with at
least one data byte; no flag changes (45_device_interpreter.md R257). -/
def Obligations.BusPayloadRead : Prop :=
  ∀ (s : State) (data : List Byte),
    Ready s → Quiet s → s.cfg.present = true → s.dev.fault = none →
    ∃ t bytes, Returns (.rRxPayload data) s { outcome := .ok, d := s.dev.statusByte s.cfg, buf := bytes } t ∧
      bytes.length = data.length ∧ t.cache = s.cache ∧ t.csn = .deasserted ∧ t.ce = s.ce ∧ t.air = s.air ∧
      (∀ head rest, s.dev.rxFifo = head :: rest →
        ∀ i < data.length, i < head.length → bytes[i]? = head[i]?) ∧
      t.dev = { s.dev with frame := .none, rxFifo := if data = [] then s.dev.rxFifo else s.dev.rxFifo.tail }

/-- W_TX_PAYLOAD with 0 to 32 data bytes: the payload is appended when the frame ends if the transmit FIFO has room,
else lost; no byte appends nothing (45_device_interpreter.md R258). -/
def Obligations.BusPayloadWrite : Prop :=
  ∀ (s : State) (data : List Byte), data.length ≤ 32 →
    Ready s → Quiet s → s.cfg.present = true → s.dev.fault = none →
    ∃ t bytes, Returns (.wTxPayload data) s { outcome := .ok, d := s.dev.statusByte s.cfg, buf := bytes } t ∧
      t.cache = s.cache ∧ t.csn = .deasserted ∧ t.ce = s.ce ∧ t.air = s.air ∧
      t.dev = { s.dev with
        frame := .none
        txFifo := if data = [] ∨ s.cfg.txDepth ≤ s.dev.txFifo.length then s.dev.txFifo else s.dev.txFifo ++ [data] }

/-- FLUSH_TX, FLUSH_RX and NOP: complete within the opcode exchange, the status byte is the one before, no flag
changes, further exchanges change nothing (45_device_interpreter.md R254). -/
def Obligations.BusFixedCommands : Prop :=
  ∀ (s : State) (data : List Byte),
    Ready s → Quiet s → s.cfg.present = true → s.dev.fault = none →
    (∃ t bytes, Returns (.busFlushTx data) s { outcome := .ok, d := s.dev.statusByte s.cfg, buf := bytes } t ∧
      t.dev = { s.dev with frame := .none, txFifo := [] } ∧ t.cache = s.cache ∧ t.ce = s.ce ∧ t.air = s.air ∧
      (t.dev.statusByte t.cfg).getLsbD s.cfg.bitTxFull = decide (s.cfg.txDepth = 0)) ∧
    (∃ t bytes, Returns (.busFlushRx data) s { outcome := .ok, d := s.dev.statusByte s.cfg, buf := bytes } t ∧
      t.dev = { s.dev with frame := .none, rxFifo := [] } ∧ t.cache = s.cache ∧ t.ce = s.ce ∧ t.air = s.air ∧
      getField (t.dev.statusByte t.cfg) (s.cfg.loRxPNo + 2) s.cfg.loRxPNo = 0b111) ∧
    (∃ t bytes, Returns (.busNop data) s { outcome := .ok, d := s.dev.statusByte s.cfg, buf := bytes } t ∧
      t.dev = { s.dev with frame := .none } ∧ t.cache = s.cache ∧ t.ce = s.ce ∧ t.air = s.air)

/-- A present device that receives a first byte the engine never emits, or more than 32 payload bytes in one frame, is
in device fault, and the machine stops there (45_device_interpreter.md R259). That it then stops for good, in every state
whose device is in fault, is the model's choice (log 20): R259 gives the device no behaviour afterwards. -/
def Obligations.DeviceFaultStops : Prop :=
  (∀ (s : State) (op : Byte) (data : List Byte),
    Ready s → s.cfg.present = true → s.dev.fault = none → s.inbox = some (.frame (op :: data)) →
    decodeOpcode s.cfg.toOpcodes op = none → step s = .fault (.device (.badOpcode op))) ∧
  (∀ (s : State) (data : List Byte),
    Ready s → s.cfg.present = true → s.dev.fault = none → s.inbox = some (.frame (s.cfg.opcWTxPayload :: data)) →
    32 < data.length → step s = .fault (.device (.payloadTooLong data.length))) ∧
  (∀ (s : State) (why : DeviceFault), s.dev.fault = some why → step s = .fault (.device why))

/-- Every request answers a next state in every state: it returns, is refused, or waits (00_scope.md R13); and no
instruction the decoder knows makes a device fault appear or go when it answers a next state: "The engine of this spec
cannot cause a device fault" (45_device_interpreter.md R259, 60_exceptions.md R294). An accepted request, a raw frame and
a round of the poll of End are each a finite run of atomic actions, the engine never idle before the last of them, to the
return or to one of the two unbounded waits (00_scope.md R12, 60_exceptions.md R293). -/
def Obligations.EngineNeverFaultsTheDevice : Prop :=
  (∀ (i : Instr) (s : State), isRequest i = true → ∃ t, exec i s = .next t) ∧
  (∀ (i : Instr) (s t : State), s.cfg.mapped = true → exec i s = .next t → t.dev.fault = s.dev.fault) ∧
  (∀ (i : Instr) (s : State), isRequest i = true → s.seq = [] → refusal s i = none →
    ∃ n, exec i s = .next (acts n (accepted (.op i) s)) ∧ (∀ m < n, (acts m (accepted (.op i) s)).seq ≠ []) ∧
      ((acts n (accepted (.op i) s)).seq = [] ∨ ∃ w, Halted w (acts n (accepted (.op i) s)))) ∧
  (∀ (i : Instr) (bytes : List Byte) (s : State), encode s.cfg.toOpcodes i = .frame bytes → s.seq = [] →
    ∃ n, exec i s = faultOr (acts n (accepted (.frame bytes) s)) (acts n (accepted (.frame bytes) s)).dev.fault ∧
      (∀ m < n, (acts m (accepted (.frame bytes) s)).seq ≠ []) ∧
      ((acts n (accepted (.frame bytes) s)).seq = [] ∨ ∃ w, Halted w (acts n (accepted (.frame bytes) s)))) ∧
  (∀ s : State, PollingStack s.seq → s.dev.fault = none → s.inbox = none →
    ∃ n, step s = .next (acts n s) ∧ ∀ m < n, (acts m s).seq ≠ [])

/-! Refusals. -/

/-- A refused request performs no action and changes nothing but the response; the reason is the first that applies in
the order of 60_exceptions.md R298 (R292): `busy` while the sequencer is not idle (30_encoding.md R103), else that of
the table `refusal`. -/
def Obligations.RefusedInOrder : Prop :=
  (∀ (i : Instr) (s : State), isRequest i = true → s.seq ≠ [] →
    exec i s = .next { s with resp := some { outcome := .refused .busy, d := 0, buf := [] } }) ∧
  (∀ (i : Instr) (s : State) (why : RefuseReason), s.seq = [] → refusal s i = some why →
    exec i s = .next { s with resp := some { outcome := .refused why, d := 0, buf := [] } })

/-! RegisterInterface. -/

/-- ReadRegister (40_register_interface.md R123): two exchanges in one frame, the second byte returned; neither cache
nor device is written; whatever the other agents do. -/
def Obligations.ReadRegisterReturns : Prop :=
  ∀ (s : State) (a : Byte), a ≤ 0x1D → Ready s →
    ∃ t st v, Returns (.readRegister a) s { outcome := .ok, d := v, buf := [] } t ∧
      t.trace = .csnDeassert :: .xchg 0xFF (some v) :: .xchg (0x00 ||| a) (some st) :: .csnAssert :: s.trace ∧
      t.cache = s.cache ∧ t.csn = .deasserted ∧ t.ce = s.ce ∧
      (∀ b i, t.dev.cell s.cfg b i = s.dev.cell s.cfg b i) ∧
      (s.cfg.present = false → v = s.cfg.absentByte) ∧
      (s.cfg.present = true → a ≠ s.cfg.regStatus → ∀ b, s.dev.cell s.cfg a 0 = some (.known b) → v = b) ∧
      (s.cfg.present = true → Quiet s → t.dev = { s.dev with frame := .none } ∧ st = s.dev.statusByte s.cfg ∧
        (a = s.cfg.regStatus → ∀ b, s.dev.cell s.cfg a 0 = some (.known b) → v = s.dev.statusByte s.cfg))

/-- WriteRegister (40_register_interface.md R124, 45_device_interpreter.md R255, R256): one frame of two exchanges; the
cache is not written; the store is that of the device, in its first byte only, and no other register changes; a write of
the status register stores nothing and clears the flags whose bits are 1. That it completes for a configuration byte with
power-up 0 too is the model's choice (log 42). -/
def Obligations.WriteRegisterStores : Prop :=
  ∀ (s : State) (a d : Byte), a ≤ 0x1D → Ready s →
    ∃ t, Returns (.writeRegister a d) s { outcome := .ok, d := 0, buf := [] } t ∧
      t.trace = .csnDeassert :: .xchg d none :: .xchg (0x20 ||| a) none :: .csnAssert :: s.trace ∧
      t.cache = s.cache ∧ t.csn = .deasserted ∧ t.ce = s.ce ∧
      (∀ b ≠ a, ∀ i, t.dev.cell s.cfg b i = s.dev.cell s.cfg b i) ∧
      (isFiveByte s.cfg a = true → ∀ i ≠ 0, t.dev.cell s.cfg a i = s.dev.cell s.cfg a i) ∧
      (s.cfg.present = false ∨ a ∈ s.cfg.stuck ∨ a ∈ s.cfg.readOnlyRegs ∨ a = s.cfg.regStatus →
        ∀ i, t.dev.cell s.cfg a i = s.dev.cell s.cfg a i) ∧
      (Takes s a → a ∉ s.cfg.readOnlyRegs → a ≠ s.cfg.regStatus →
        t.dev.cell s.cfg a 0 =
          some (if legalValue s.cfg a d = true ∨ isFiveByte s.cfg a = true then .known d else .unsettled)) ∧
      (Takes s a → a = s.cfg.regStatus → Quiet s → t.dev = { s.dev with
        frame := .none
        dataReceived := s.dev.dataReceived && !d.getLsbD s.cfg.bitRxDr
        dataSent := s.dev.dataSent && !d.getLsbD s.cfg.bitTxDs
        maxRetransmit := s.dev.maxRetransmit && !d.getLsbD s.cfg.bitMaxRt })

/-- Round trip (40_register_interface.md R128): on a present, working device a legal byte written to a writable register
is what the read that follows returns, whatever the other agents do between. -/
def Obligations.RegisterRoundTrip : Prop :=
  ∀ (s : State) (a d : Byte), a ≤ 0x1D → Ready s → Takes s a → a ∉ s.cfg.readOnlyRegs → a ≠ s.cfg.regStatus →
    legalValue s.cfg a d = true ∨ isFiveByte s.cfg a = true →
    ∃ t u, exec (.writeRegister a d) s = .next t ∧ Returns (.readRegister a) t { outcome := .ok, d := d, buf := [] } u

/-- Read idempotence (40_register_interface.md R129, 20_memory.md R67): two reads with no write and no device step
between them return the same byte, of every register that holds one. -/
def Obligations.ReadIdempotence : Prop :=
  ∀ (s : State) (a b : Byte), a ≤ 0x1D → Ready s → Quiet s → s.dev.cell s.cfg a 0 = some (.known b) →
    ∃ t u r, Returns (.readRegister a) s r t ∧ Returns (.readRegister a) t r u

/-- WriteCommand, FlushTx and FlushRx (40_register_interface.md R125, 42_packet_io.md R184, R185): one exchange, the
status byte before the command takes effect is returned. Whatever the other agents do, no flag is cleared, FLUSH_TX
leaves the transmit FIFO empty, and so does FLUSH_RX the receive FIFO when the line is low; when no other agent steps the
FIFO named is all of the device that changes. -/
def Obligations.CommandsReturnStatus : Prop :=
  ∀ (s : State) (i : Instr) (b : Byte),
    (i = .writeCommand b ∧ (b = s.cfg.opcFlushTx ∨ b = s.cfg.opcFlushRx ∨ b = s.cfg.opcNop)) ∨
      (i = .flushTx ∧ b = s.cfg.opcFlushTx) ∨ (i = .flushRx ∧ b = s.cfg.opcFlushRx) →
    Ready s →
    ∃ t st, Returns i s { outcome := .ok, d := st, buf := [] } t ∧
      t.trace = .csnDeassert :: .xchg b (some st) :: .csnAssert :: s.trace ∧
      t.cache = s.cache ∧ t.csn = .deasserted ∧ t.ce = s.ce ∧ (∀ a j, t.dev.cell s.cfg a j = s.dev.cell s.cfg a j) ∧
      (s.cfg.present = false → st = s.cfg.absentByte) ∧
      (s.dev.dataReceived = true → t.dev.dataReceived = true) ∧ (s.dev.dataSent = true → t.dev.dataSent = true) ∧
      t.dev.maxRetransmit = s.dev.maxRetransmit ∧
      (s.cfg.present = true → b = s.cfg.opcFlushTx → t.dev.txFifo = []) ∧
      (s.cfg.present = true → b = s.cfg.opcFlushRx → s.ce = .low → t.dev.rxFifo = []) ∧
      (s.cfg.present = true → Quiet s → st = s.dev.statusByte s.cfg ∧
        t.dev = { s.dev with
          frame := .none
          txFifo := if b = s.cfg.opcFlushTx then [] else s.dev.txFifo
          rxFifo := if b = s.cfg.opcFlushRx then [] else s.dev.rxFifo })

/-- WriteRegisterBurst (40_register_interface.md R127): one frame with five data bytes; the cache is not written; a
5-byte register takes all five; of any other register later reads are draws (at a read-only address that is log 36). -/
def Obligations.WriteRegisterBurstStores : Prop :=
  ∀ (s : State) (a : Byte) (buf : List Byte), a ≤ 0x1D → Ready s → 5 ≤ buf.length →
    ∃ t, Returns (.writeRegisterBurst a 5 buf) s { outcome := .ok, d := 0, buf := [] } t ∧
      t.trace = .csnDeassert :: (((buf.take 5).map fun b => TraceEvent.xchg b none).reverse ++
        .xchg (0x20 ||| a) none :: .csnAssert :: s.trace) ∧
      t.cache = s.cache ∧ t.csn = .deasserted ∧ t.ce = s.ce ∧
      (∀ b ≠ a, ∀ i, t.dev.cell s.cfg b i = s.dev.cell s.cfg b i) ∧
      (Takes s a → isFiveByte s.cfg a = true → ∀ i < 5, t.dev.cell s.cfg a i = (buf[i]?).map RegCell.known) ∧
      (Takes s a → isFiveByte s.cfg a = false → t.dev.cell s.cfg a 0 = some .unsettled)

/-! TransceiverConfig. -/

/-- WriteValidated (41_transceiver_config.md R156, R157): a write frame and a read frame, all 8 bits compared; the cache
takes the byte on a match and is unchanged on a mismatch, with no retry. That it completes for a configuration byte with
power-up 0 too is the model's choice (log 42). -/
def Obligations.WriteValidatedChecksReadBack : Prop :=
  ∀ (s : State) (a d : Byte), a ≤ 0x1D → Ready s →
    ∃ t st v, Returns (.writeValidated a d) s { outcome := if v = d then .ok else .fail, d := 0, buf := [] } t ∧
      t.trace = .csnDeassert :: .xchg 0xFF (some v) :: .xchg (0x00 ||| a) (some st) :: .csnAssert ::
        .csnDeassert :: .xchg d none :: .xchg (0x20 ||| a) none :: .csnAssert :: s.trace ∧
      (∀ b, t.cached b = if v = d ∧ b = a then some d else s.cached b) ∧ t.csn = .deasserted ∧ t.ce = s.ce ∧
      (s.cfg.present = false → v = s.cfg.absentByte) ∧
      (Takes s a → a ∉ s.cfg.readOnlyRegs → a ≠ s.cfg.regStatus → legalValue s.cfg a d = true ∨ isFiveByte s.cfg a = true →
        v = d ∧ t.dev.cell s.cfg a 0 = some (.known d)) ∧
      (s.cfg.present = true → a ∈ s.cfg.stuck ∨ a ∈ s.cfg.readOnlyRegs → a ≠ s.cfg.regStatus →
        ∀ b, s.dev.cell s.cfg a 0 = some (.known b) → v = b ∧ t.dev.cell s.cfg a 0 = some (.known b))

/-- Init never aborts early (41_transceiver_config.md R159 to R161, R163, R164): whatever the device answers, and whatever
the other agents do, its trace is the one tabulated, byte by byte of what is sent and frame by frame, with the one
Wait(T_SETTLE) after the first read-back; it fills the cache, and reports at most seven mismatches. -/
def Obligations.InitRunsTheFullSequence : Prop :=
  ∀ s : State, Ready s →
    ∃ t rc, Returns .init s { outcome := if rc = 0 then .ok else .fail, d := rc, buf := [] } t ∧
      t.trace.map TraceEvent.outline = (initTokens s.cfg).reverse ++ s.trace.map TraceEvent.outline ∧
      framesOpened t.trace = framesOpened s.trace + 45 ∧
      t.initialised = true ∧ t.csn = .deasserted ∧ t.ce = s.ce ∧ rc.toNat < 2 ^ Config.nValidated ∧
      ∀ a ≤ 0x1D, t.cached a ≠ none

/-- The result code of Init on a present device (41_transceiver_config.md R161, R163, R165, 45_device_interpreter.md
R264), whatever the other agents do: bit `k` is set exactly when the `k`-th register drops its write and held another
byte; a register that takes its write holds the value, in the device and in the cache; one that drops it keeps its
byte, and the cache its baseline. -/
def Obligations.InitResultCode : Prop :=
  ∀ s : State, Ready s → s.cfg.present = true → s.cfg.legal = true →
    ∃ t rc, Returns .init s { outcome := if rc = 0 then .ok else .fail, d := rc, buf := [] } t ∧
      (∀ k (h : k < (initValues s.cfg).length),
        ((initValues s.cfg)[k].1 ∉ s.cfg.stuck →
          rc.getLsbD k = false ∧ t.dev.cell s.cfg (initValues s.cfg)[k].1 0 = some (.known (initValues s.cfg)[k].2) ∧
            t.cached (initValues s.cfg)[k].1 = some (initValues s.cfg)[k].2) ∧
        ((initValues s.cfg)[k].1 ∈ s.cfg.stuck → ∀ b, s.dev.cell s.cfg (initValues s.cfg)[k].1 0 = some (.known b) →
          rc.getLsbD k = decide (b ≠ (initValues s.cfg)[k].2) ∧
            t.dev.cell s.cfg (initValues s.cfg)[k].1 0 = some (.known b) ∧ t.cached (initValues s.cfg)[k].1 = some b)) ∧
      (s.cfg.regTxAddr ∉ s.cfg.stuck →
        ∀ i < 5, t.dev.cell s.cfg s.cfg.regTxAddr i = (s.cfg.pipeAddr.toList[i]?).map RegCell.known) ∧
      (∀ a ∉ configuredRegisters s.cfg, ∀ i, t.dev.cell s.cfg a i = s.dev.cell s.cfg a i) ∧
      (s.cfg.stuck = [] → rc = 0)

/-- Init on an absent device (41_transceiver_config.md R166): every cache entry is `ABSENT_BYTE`, and bit `k` is set
exactly when the `k`-th value differs from it. -/
def Obligations.InitAbsentDevice : Prop :=
  ∀ s : State, Ready s → s.cfg.present = false →
    ∃ t rc, Returns .init s { outcome := if rc = 0 then .ok else .fail, d := rc, buf := [] } t ∧
      t.initialised = true ∧ (∀ a ≤ 0x1D, t.cached a = some s.cfg.absentByte) ∧
      (∀ k (h : k < (initValues s.cfg).length), rc.getLsbD k = decide ((initValues s.cfg)[k].2 ≠ s.cfg.absentByte)) ∧
      rc.getLsbD 7 = false

/-! PacketIO. -/

/-- WriteFifo (42_packet_io.md R181, R183): for 1 to 32 bytes one frame with exactly those bytes in order, appended to
the transmit FIFO when it has room; for no byte, nothing at all. -/
def Obligations.WriteFifoLoads : Prop :=
  (∀ (s : State) (buf : List Byte), s.seq = [] →
    exec (.writeFifo 0 buf) s = .next { s with resp := some { outcome := .ok, d := 0, buf := [] } }) ∧
  (∀ (s : State) (n : Byte) (buf : List Byte), n ≠ 0 → n ≤ 32 → n.toNat ≤ buf.length → Ready s →
    ∃ t, Returns (.writeFifo n buf) s { outcome := .ok, d := 0, buf := [] } t ∧
      t.trace = .csnDeassert :: (((buf.take n.toNat).map fun b => TraceEvent.xchg b none).reverse ++
        .xchg s.cfg.opcWTxPayload none :: .csnAssert :: s.trace) ∧
      t.cache = s.cache ∧ t.csn = .deasserted ∧ t.ce = s.ce ∧ (∀ b j, t.dev.cell s.cfg b j = s.dev.cell s.cfg b j) ∧
      (s.cfg.present = true → Quiet s → t.dev = { s.dev with
        frame := .none
        txFifo := if s.dev.txFifo.length < s.cfg.txDepth then s.dev.txFifo ++ [buf.take n.toNat] else s.dev.txFifo }))

/-- ReadFifo (42_packet_io.md R182, R183): for 1 to 32 bytes one frame that returns exactly so many bytes, those of the
head of the receive FIFO in order, and removes the head; no flag is cleared; for no byte, nothing at all. -/
def Obligations.ReadFifoReturnsTheHead : Prop :=
  (∀ s : State, s.seq = [] →
    exec (.readFifo 0) s = .next { s with resp := some { outcome := .ok, d := 0, buf := [] } }) ∧
  (∀ (s : State) (n : Byte), n ≠ 0 → n ≤ 32 → Ready s →
    ∃ t st bytes, Returns (.readFifo n) s { outcome := .ok, d := 0, buf := bytes } t ∧ bytes.length = n.toNat ∧
      t.trace = .csnDeassert :: ((bytes.map fun b => TraceEvent.xchg 0xFF (some b)).reverse ++
        .xchg s.cfg.opcRRxPayload (some st) :: .csnAssert :: s.trace) ∧
      t.cache = s.cache ∧ t.csn = .deasserted ∧ t.ce = s.ce ∧ (∀ b j, t.dev.cell s.cfg b j = s.dev.cell s.cfg b j) ∧
      (s.cfg.present = false → bytes = List.replicate n.toNat s.cfg.absentByte) ∧
      (s.cfg.present = true → Quiet s → t.dev = { s.dev with frame := .none, rxFifo := s.dev.rxFifo.tail } ∧
        ∀ head rest, s.dev.rxFifo = head :: rest → ∀ i < n.toNat, i < head.length → bytes[i]? = head[i]?))

/-- ClearFlags (42_packet_io.md R186, 45_device_interpreter.md R256): one frame with the mask cut to the three flags; each
flag whose bit is 1 is cleared, the others keep their value, nothing is stored. -/
def Obligations.ClearFlagsClearsTheMaskedFlags : Prop :=
  ∀ (s : State) (m : Byte), Ready s →
    ∃ t, Returns (.clearFlags m) s { outcome := .ok, d := 0, buf := [] } t ∧
      t.trace = .csnDeassert :: .xchg (m &&& onesAt [s.cfg.bitRxDr, s.cfg.bitTxDs, s.cfg.bitMaxRt]) none ::
        .xchg (0x20 ||| s.cfg.regStatus) none :: .csnAssert :: s.trace ∧
      t.cache = s.cache ∧ t.csn = .deasserted ∧ t.ce = s.ce ∧ (∀ b j, t.dev.cell s.cfg b j = s.dev.cell s.cfg b j) ∧
      (Takes s s.cfg.regStatus → Quiet s → t.dev = { s.dev with
        frame := .none
        dataReceived := s.dev.dataReceived && !m.getLsbD s.cfg.bitRxDr
        dataSent := s.dev.dataSent && !m.getLsbD s.cfg.bitTxDs
        maxRetransmit := s.dev.maxRetransmit && !m.getLsbD s.cfg.bitMaxRt })

/-- Start on a device that takes the writes (42_packet_io.md R190, R183): flags cleared, mode bit transmit in cache and
device, the transmit FIFO holding exactly the new payload, and nothing for no byte; the enable line is not touched. -/
def Obligations.StartLoadsOnePayload : Prop :=
  ∀ (s : State) (n : Byte) (buf : List Byte) (c w : Byte), Ready s → Quiet s → s.initialised = true → s.ce = .low →
    n ≤ 32 → n.toNat ≤ buf.length → 1 ≤ s.cfg.txDepth → s.cached s.cfg.regConfig = some c →
    w = withBit c s.cfg.bitPrimRx false → legalValue s.cfg s.cfg.regConfig c = true →
    Takes s s.cfg.regConfig → Takes s s.cfg.regStatus →
    ∃ t, Returns (.start n buf) s { outcome := .ok, d := 0, buf := [] } t ∧
      t.ce = .low ∧ t.csn = .deasserted ∧
      (∀ b, t.cached b = if b = s.cfg.regConfig then some w else s.cached b) ∧
      t.dev.cell s.cfg s.cfg.regConfig 0 = some (.known w) ∧
      (∀ b ≠ s.cfg.regConfig, ∀ j, t.dev.cell s.cfg b j = s.dev.cell s.cfg b j) ∧
      t.dev.txFifo = (if n = 0 then [] else [buf.take n.toNat]) ∧ t.dev.rxFifo = s.dev.rxFifo ∧
      t.dev.dataReceived = false ∧ t.dev.dataSent = false ∧ t.dev.maxRetransmit = false

/-- The guard of the send path (42_packet_io.md R191 b, 43_mode_controller.md R213): when the mode-bit write mismatches,
Start and Send return `fail` after exactly three frames, with neither flush nor load nor pulse; cache and enable line
are as they were, and the write is not retried. -/
def Obligations.ModeBitNotTakenStopsTheSend : Prop :=
  ∀ (s : State) (n : Byte) (buf : List Byte) (i : Instr) (c b w : Byte), i = .start n buf ∨ i = .send n buf →
    Ready s → s.initialised = true → s.ce = .low → n ≤ 32 → s.cached s.cfg.regConfig = some c →
    w = withBit c s.cfg.bitPrimRx false →
    s.cfg.present = true → s.cfg.regConfig ∈ s.cfg.stuck → s.dev.cell s.cfg s.cfg.regConfig 0 = some (.known b) →
    b ≠ w →
    ∃ t st, Returns i s { outcome := .fail, d := 0, buf := [] } t ∧ t.ce = .low ∧ t.cache = s.cache ∧
      t.trace = .csnDeassert :: .xchg 0xFF (some b) :: .xchg (0x00 ||| s.cfg.regConfig) (some st) :: .csnAssert ::
        .csnDeassert :: .xchg w none :: .xchg (0x20 ||| s.cfg.regConfig) none :: .csnAssert ::
        .csnDeassert :: .xchg (onesAt [s.cfg.bitRxDr, s.cfg.bitTxDs, s.cfg.bitMaxRt]) none ::
        .xchg (0x20 ||| s.cfg.regStatus) none :: .csnAssert :: s.trace

/-- Initiate (42_packet_io.md R192, 45_device_interpreter.md R269, R270): the line goes high, and is high between its
first action and its last, at least 10 microseconds pass, the line goes low; a powered-up device in transmit mode with a payload and no burst in progress starts exactly
one burst, which latches address, channel, rate and head payload, and completes only if the premise
`transmit_completes` holds (then the frame is on the air, the payload is gone and "data sent" is set); when a
condition fails nothing is triggered. That with the premise the burst completes before Initiate returns is the model's
choice for an empty schedule (log 12): R270 gives the step an unspecified time. -/
def Obligations.InitiateTriggersOneBurst : Prop :=
  ∀ s : State, s.seq = [] → Quiet s → s.ce = .low →
    ∃ t, Returns .initiate s { outcome := .ok, d := 0, buf := [] } t ∧
      t.trace = .ceLow :: .wait 10 :: .ceHigh :: s.trace ∧ t.ce = .low ∧ t.csn = s.csn ∧ t.cache = s.cache ∧
      (acts 1 (accepted (.op .initiate) s)).ce = .high ∧ (acts 2 (accepted (.op .initiate) s)).ce = .high ∧
      (∀ b j, t.dev.cell s.cfg b j = s.dev.cell s.cfg b j) ∧ t.dev.rxFifo = s.dev.rxFifo ∧
      t.dev.dataReceived = s.dev.dataReceived ∧
      (∀ cb head rest, s.cfg.present = true → s.dev.cell s.cfg s.cfg.regConfig 0 = some (.known cb) →
        cb.getLsbD s.cfg.bitPwrUp = true → cb.getLsbD s.cfg.bitPrimRx = false → s.dev.txFifo = head :: rest →
        ∃ f : AirFrame, f.payload = head ∧
          (∀ i < 5, ∀ b, s.dev.cell s.cfg s.cfg.regTxAddr i = some (.known b) → f.addr[i]? = some b) ∧
          (∀ b, s.dev.cell s.cfg s.cfg.regRfCh 0 = some (.known b) → f.chan = b) ∧
          (∀ b, s.dev.cell s.cfg s.cfg.regRfSetup 0 = some (.known b) → f.rate = b) ∧
          (s.cfg.txCompletes = false → t.dev.burst = some { frame := f, held := true } ∧ t.air = s.air ∧
            t.dev.txFifo = s.dev.txFifo ∧ t.dev.dataSent = s.dev.dataSent) ∧
          (s.cfg.txCompletes = true → t.dev.burst = none ∧ t.air = s.air ++ [f] ∧ t.dev.txFifo = rest ∧
            t.dev.dataSent = true)) ∧
      (∀ cb, s.cfg.present = false ∨ s.dev.txFifo = [] ∨
          (s.dev.cell s.cfg s.cfg.regConfig 0 = some (.known cb) ∧
            (cb.getLsbD s.cfg.bitPwrUp = false ∨ cb.getLsbD s.cfg.bitPrimRx = true)) →
        t.dev = s.dev ∧ t.air = s.air)

/-- End returns once the "data sent" bit is seen (42_packet_io.md R193): the last status byte is returned, that flag
alone is cleared, whatever the others are; on an absent device it returns when that bit of `ABSENT_BYTE` is 1
(45_device_interpreter.md R276). That it returns within the one `exec` that requested it, after one poll, is the model's
choice of where a step ends (log 1). -/
def Obligations.EndReturnsOnDataSent : Prop :=
  (∀ s : State, Ready s → Quiet s → Takes s s.cfg.regStatus → s.dev.dataSent = true →
    ∃ t, Returns .endSend s { outcome := .ok, d := s.dev.statusByte s.cfg, buf := [] } t ∧
      t.dev = { s.dev with frame := .none, dataSent := false } ∧ t.cache = s.cache ∧ t.ce = s.ce ∧
      t.trace = .csnDeassert :: .xchg (onesAt [s.cfg.bitTxDs]) none :: .xchg (0x20 ||| s.cfg.regStatus) none :: .csnAssert ::
        .csnDeassert :: .xchg s.cfg.opcNop (some (s.dev.statusByte s.cfg)) :: .csnAssert :: s.trace) ∧
  (∀ s : State, Ready s → s.cfg.present = false → s.cfg.absentByte.getLsbD s.cfg.bitTxDs = true →
    ∃ t, Returns .endSend s { outcome := .ok, d := s.cfg.absentByte, buf := [] } t ∧ t.dev = s.dev)

/-- End hangs (42_packet_io.md R193, R195, 60_exceptions.md R293) when no burst is in progress and "data sent" is clear,
and on an absent device when that bit of `ABSENT_BYTE` is 0, whatever the other agents do there; `Send(0, [])` hangs even on a
working device, since nothing is loaded. So does every operation in the other unbounded wait, an exchange that does not
complete (40_register_interface.md R120, R131), in any state and whatever the other agents do; and every instruction that
exchanges comes to that wait when no exchange completes any more. That the port tells by a number how many exchanges still
complete is the model's choice (log 19). -/
def Obligations.TheDataSentPollHangs : Prop :=
  (∀ s : State, Ready s → Quiet s → s.inbox = none → s.cfg.present = true → s.dev.fault = none → s.dev.dataSent = false →
    ∃ t, exec .endSend s = .next t ∧ Hangs t) ∧
  (∀ s : State, Ready s → s.inbox = none → s.cfg.present = false → s.dev.fault = none →
    s.cfg.absentByte.getLsbD s.cfg.bitTxDs = false → ∃ t, exec .endSend s = .next t ∧ Hangs t) ∧
  (∀ (s : State) (buf : List Byte) (c : Byte), Ready s → Quiet s → s.inbox = none → s.dev.fault = none →
    s.initialised = true → s.ce = .low → s.cached s.cfg.regConfig = some c → legalValue s.cfg s.cfg.regConfig c = true →
    Takes s s.cfg.regConfig → Takes s s.cfg.regStatus → ∃ t, exec (.send 0 buf) s = .next t ∧ Hangs t) ∧
  (∀ s : State, Halted .shift s → s.dev.fault = none → Hangs s) ∧
  (∀ (i : Instr) (s : State), s.seq = [] → s.port.left = some 0 → s.dev.fault = none → refusal s i = none →
    exchanges i = true → ∃ t, exec i s = .next t ∧ Halted .shift t ∧ Hangs t)

/-- Under both fairness premises End terminates once a burst is in progress or over, alone and inside Send and the
Child's tick, whatever the other agents do meanwhile (45_device_interpreter.md R275, 42_packet_io.md R193, R195,
44_telemetry_loop.md R236): the engine is idle, the response on its port is End's status byte, or plain `ok` of Send and
of the tick, and a reading of 763 or more sounds its alert once, at that return. The bound, as many further steps as the
schedule has gaps left and one more, and that the burst completes once the schedule is used up, are the model's choice
(log 12, log 13). -/
def Obligations.EndTerminatesUnderFairness : Prop :=
  (∀ s : State, Ready s → Takes s s.cfg.regStatus → s.dev.fault = none → s.inbox = none → s.cfg.txCompletes = true →
    s.dev.burst ≠ none →
    ∃ n ≤ s.env.length + 1, ∃ t u r, exec .endSend s = .next t ∧ runSteps n t = some u ∧ u.seq = [] ∧
      u.resp = some r ∧ r.outcome = .ok ∧ r.d.getLsbD s.cfg.bitTxDs = true) ∧
  (∀ (s : State) (p : Position) (callers : List Position), s.seq = p :: callers → PollingTasks s.seq →
    p.polls = true → ExchangesComplete s → s.cfg.mapped = true → Takes s s.cfg.regStatus →
    s.dev.fault = none → s.inbox = none → s.cfg.txCompletes = true → s.dev.burst ≠ none ∨ s.dev.dataSent = true →
    ∃ n ≤ s.env.length + 1, ∃ u r, runSteps n s = some u ∧ u.seq = [] ∧ u.resp = some r ∧ r.outcome = .ok ∧
      (callers = [] → r.d.getLsbD s.cfg.bitTxDs = true) ∧
      (callers ≠ [] → r.d = 0 ∧ r.buf = []) ∧
      alerts .linkDown u.trace = alerts .linkDown s.trace ∧
      alerts .overThreshold u.trace = alerts .overThreshold s.trace +
        (if callers.any (fun q => decide (q.task = .op .childTick ∧ 763 ≤ q.loc.reading.toNat)) then 1 else 0)) ∧
  (∀ (s : State) (n : Byte) (buf : List Byte) (c : Byte), Ready s → s.initialised = true → s.ce = .low → n ≠ 0 → n ≤ 32 →
    n.toNat ≤ buf.length → 1 ≤ s.cfg.txDepth → s.cached s.cfg.regConfig = some c →
    legalValue s.cfg s.cfg.regConfig c = true → c.getLsbD s.cfg.bitPwrUp = true →
    Takes s s.cfg.regConfig → Takes s s.cfg.regStatus → s.dev.fault = none → s.inbox = none → s.cfg.txCompletes = true →
    ∃ k ≤ s.env.length + 1, ∃ t u, exec (.send n buf) s = .next t ∧ runSteps k t = some u ∧ u.seq = [] ∧
      u.resp = some { outcome := .ok, d := 0, buf := [] }) ∧
  (∀ (s : State) (c : Byte), Ready s → s.initialised = true → s.ce = .low → 1 ≤ s.cfg.txDepth →
    s.tickdiv + 1 = s.cfg.childDiv → s.cached s.cfg.regConfig = some c → legalValue s.cfg s.cfg.regConfig c = true →
    c.getLsbD s.cfg.bitPwrUp = true → Takes s s.cfg.regConfig → Takes s s.cfg.regStatus → s.dev.fault = none →
    s.inbox = none → s.cfg.txCompletes = true →
    ∃ k ≤ s.env.length + 1, ∃ t u, exec .childTick s = .next t ∧ runSteps k t = some u ∧ u.seq = [] ∧
      u.resp = some { outcome := .ok, d := 0, buf := [] } ∧ u.tickdiv = 0 ∧ u.sensor = s.sensor.tail ∧
      alerts .linkDown u.trace = alerts .linkDown s.trace ∧
      alerts .overThreshold u.trace = alerts .overThreshold s.trace + (if 763 ≤ s.nextReading.toNat then 1 else 0))

/-- Send on a working device (42_packet_io.md R195, 43_mode_controller.md R218): `ok`; mode bit transmit in cache and
device, the enable line pulsed and low, the transmit FIFO empty, "data sent" clear, exactly one air frame emitted with
the payload given and the configured address. That it returns within one `exec`, after exactly one poll, is the model's
choice for an empty schedule (log 12; R193 allows any number of polls, and `EndTerminatesUnderFairness` says how it
returns otherwise). -/
def Obligations.SendEmitsOneFrame : Prop :=
  ∀ (s : State) (n : Byte) (buf : List Byte) (c w : Byte), Ready s → Quiet s → s.initialised = true → s.ce = .low →
    n ≠ 0 → n ≤ 32 → n.toNat ≤ buf.length → 1 ≤ s.cfg.txDepth → s.cfg.txCompletes = true →
    s.cached s.cfg.regConfig = some c → w = withBit c s.cfg.bitPrimRx false →
    legalValue s.cfg s.cfg.regConfig c = true → c.getLsbD s.cfg.bitPwrUp = true →
    Takes s s.cfg.regConfig → Takes s s.cfg.regStatus →
    ∃ t f st0 st1, Returns (.send n buf) s { outcome := .ok, d := 0, buf := [] } t ∧
      t.ce = .low ∧ t.csn = .deasserted ∧
      (∀ b, t.cached b = if b = s.cfg.regConfig then some w else s.cached b) ∧
      t.dev.cell s.cfg s.cfg.regConfig 0 = some (.known w) ∧
      t.dev.txFifo = [] ∧ t.dev.rxFifo = s.dev.rxFifo ∧ t.dev.dataSent = false ∧ t.dev.burst = none ∧
      t.air = s.air ++ [f] ∧ f.payload = buf.take n.toNat ∧
      (∀ i < 5, ∀ b, s.dev.cell s.cfg s.cfg.regTxAddr i = some (.known b) → f.addr[i]? = some b) ∧
      (∀ b, s.dev.cell s.cfg s.cfg.regRfCh 0 = some (.known b) → f.chan = b) ∧
      t.trace = .csnDeassert :: .xchg (onesAt [s.cfg.bitTxDs]) none :: .xchg (0x20 ||| s.cfg.regStatus) none :: .csnAssert ::
        .csnDeassert :: .xchg s.cfg.opcNop (some (onesAt (s.cfg.bitTxDs ::
          (if s.dev.rxFifo = [] then [s.cfg.loRxPNo, s.cfg.loRxPNo + 1, s.cfg.loRxPNo + 2] else [])))) :: .csnAssert ::
        .ceLow :: .wait 10 :: .ceHigh ::
        .csnDeassert :: (((buf.take n.toNat).map fun b => TraceEvent.xchg b none).reverse ++
        .xchg s.cfg.opcWTxPayload none :: .csnAssert ::
        .csnDeassert :: .xchg s.cfg.opcFlushTx (some st0) :: .csnAssert ::
        .csnDeassert :: .xchg 0xFF (some w) :: .xchg (0x00 ||| s.cfg.regConfig) (some st1) :: .csnAssert ::
        .csnDeassert :: .xchg w none :: .xchg (0x20 ||| s.cfg.regConfig) none :: .csnAssert ::
        .csnDeassert :: .xchg (onesAt [s.cfg.bitRxDr, s.cfg.bitTxDs, s.cfg.bitMaxRt]) none ::
        .xchg (0x20 ||| s.cfg.regStatus) none :: .csnAssert :: s.trace)

/-! ModeController. -/

/-- SetModeBit (43_mode_controller.md R212): a validated write of the cached configuration byte with the mode bit
replaced, nothing else; on a match the cache holds that byte, on a mismatch it is unchanged; the line is not touched. That
it completes for a bit 0 with the line high too is the model's choice (log 41). -/
def Obligations.SetModeBitWritesTheCachedByte : Prop :=
  ∀ (s : State) (m c w : Byte), Ready s → s.initialised = true → s.cached s.cfg.regConfig = some c →
    w = withBit c s.cfg.bitPrimRx (m.getLsbD 0) →
    ∃ t st v, Returns (.setModeBit m) s { outcome := if v = w then .ok else .fail, d := 0, buf := [] } t ∧
      t.trace = .csnDeassert :: .xchg 0xFF (some v) :: .xchg (0x00 ||| s.cfg.regConfig) (some st) :: .csnAssert ::
        .csnDeassert :: .xchg w none :: .xchg (0x20 ||| s.cfg.regConfig) none :: .csnAssert :: s.trace ∧
      (∀ b, t.cached b = if v = w ∧ b = s.cfg.regConfig then some w else s.cached b) ∧
      t.ce = s.ce ∧ t.csn = .deasserted ∧
      (Takes s s.cfg.regConfig → legalValue s.cfg s.cfg.regConfig c = true →
        v = w ∧ t.dev.cell s.cfg s.cfg.regConfig 0 = some (.known w))

/-- StartListening (43_mode_controller.md R214, R213): flags cleared, the mode-bit write, and the line raised only if
the write matched, where a line that is high already changes nothing; if it did not match, `fail`, and neither half of the
pair changed. -/
def Obligations.StartListeningRaisesTheLineLast : Prop :=
  ∀ (s : State) (c w : Byte), Ready s → s.initialised = true → s.cached s.cfg.regConfig = some c →
    w = withBit c s.cfg.bitPrimRx true →
    ∃ t st v, Returns .startListening s { outcome := if v = w then .ok else .fail, d := 0, buf := [] } t ∧
      t.trace = (if v = w then [.ceHigh] else []) ++ (.csnDeassert :: .xchg 0xFF (some v) ::
        .xchg (0x00 ||| s.cfg.regConfig) (some st) ::
        .csnAssert :: .csnDeassert :: .xchg w none :: .xchg (0x20 ||| s.cfg.regConfig) none :: .csnAssert ::
        .csnDeassert :: .xchg (onesAt [s.cfg.bitRxDr, s.cfg.bitTxDs, s.cfg.bitMaxRt]) none ::
        .xchg (0x20 ||| s.cfg.regStatus) none :: .csnAssert :: s.trace) ∧
      (v = w → t.ce = .high ∧ t.cached s.cfg.regConfig = some w) ∧
      (v ≠ w → t.ce = s.ce ∧ t.cache = s.cache) ∧
      (∀ b ≠ s.cfg.regConfig, t.cached b = s.cached b) ∧ t.csn = .deasserted ∧
      (s.ce = .high → Quiet s → t.dev.burst = none ∧ t.air = s.air) ∧
      (Takes s s.cfg.regConfig → legalValue s.cfg s.cfg.regConfig c = true →
        v = w ∧ t.dev.cell s.cfg s.cfg.regConfig 0 = some (.known w)) ∧
      (Takes s s.cfg.regConfig → legalValue s.cfg s.cfg.regConfig c = true → Takes s s.cfg.regStatus → Quiet s →
        t.dev.dataReceived = false ∧ t.dev.dataSent = false ∧ t.dev.maxRetransmit = false ∧ t.dev.burst = none)

/-- StopListening (43_mode_controller.md R215): the line first, the flush second, so that no frame arrives between
them: the receive FIFO is empty whatever the other agents do; mode bit and flags stay. -/
def Obligations.StopListeningEmptiesTheFifo : Prop :=
  ∀ s : State, Ready s →
    ∃ t st, Returns .stopListening s { outcome := .ok, d := st, buf := [] } t ∧
      t.trace = .csnDeassert :: .xchg s.cfg.opcFlushRx (some st) :: .csnAssert :: .ceLow :: s.trace ∧
      t.ce = .low ∧ t.csn = .deasserted ∧ t.cache = s.cache ∧ (∀ b j, t.dev.cell s.cfg b j = s.dev.cell s.cfg b j) ∧
      (s.cfg.present = true → t.dev.rxFifo = []) ∧
      (s.cfg.present = true → Quiet s → st = s.dev.statusByte s.cfg ∧ t.dev = { s.dev with frame := .none, rxFifo := [] })

/-- GetMode (43_mode_controller.md R217, 10_state.md R39): no bus activity; the mode of the cached configuration byte
and the enable line. That 2 can be answered, after a SetModeBit(0) with the line high, is the model's choice (log 41). -/
def Obligations.GetModeReadsTheCache : Prop :=
  ∀ s : State, s.seq = [] → s.initialised = true →
    exec .getMode s = .next { s with resp := some {
      outcome := .ok
      d := match s.cached s.cfg.regConfig with
        | none => 0
        | some c =>
          if c.getLsbD s.cfg.bitPwrUp = false then 0
          else if s.ce = .low then 1 else if c.getLsbD s.cfg.bitPrimRx = false then 2 else 3
      buf := [] } }

/-! The host. -/

/-- PollReceived (44_telemetry_loop.md R233): one no-op command; the "data received" bit of the status byte; the flag is
not cleared. -/
def Obligations.PollReceivedTestsTheFlag : Prop :=
  ∀ s : State, Ready s →
    ∃ t st, Returns .pollReceived s { outcome := .ok, d := if st.getLsbD s.cfg.bitRxDr then 1 else 0, buf := [] } t ∧
      t.trace = .csnDeassert :: .xchg s.cfg.opcNop (some st) :: .csnAssert :: s.trace ∧ t.cache = s.cache ∧ t.ce = s.ce ∧
      (s.cfg.present = false → st = s.cfg.absentByte) ∧ (s.dev.dataReceived = true → t.dev.dataReceived = true) ∧
      (s.cfg.present = true → Quiet s → st.getLsbD s.cfg.bitRxDr = s.dev.dataReceived ∧
        t.dev = { s.dev with frame := .none })

/-- Boot (44_telemetry_loop.md R232, 70_reset_and_hazards.md R323, 41_transceiver_config.md R159 to R167), whatever the
device answers and whatever the other agents do: the board is initialised, then Init has its whole trace, then, on the
Parent only, StartListening has its own, with the line raised only on a match; nothing is gated on the result code; the tick
source is armed; the cache is filled. On a present device each of the seven validated registers holds the value of Init, on
the Parent with the mode bit receive, in device and cache, unless it drops its write; the transmit address is written; no
other register changes; a node whose configuration register takes its writes ends in Standby as a Child, in Listening as a
Parent. On an absent device every cache entry is `ABSENT_BYTE`. That BoardInit is one action with one token is the model's
choice (log 39). -/
def Obligations.BootInitialisesAndArms : Prop :=
  ∀ s : State, Ready s →
    ∃ t rc, Returns .boot s { outcome := .ok, d := rc, buf := [] } t ∧
      t.tickArmed = true ∧ t.initialised = true ∧ t.csn = .deasserted ∧ rc.toNat < 2 ^ Config.nValidated ∧
      (∀ a ≤ 0x1D, t.cached a ≠ none) ∧
      (∀ a ∉ configuredRegisters s.cfg, ∀ i, t.dev.cell s.cfg a i = s.dev.cell s.cfg a i) ∧
      (s.cfg.role = .child → t.ce = .low ∧
        t.trace.map TraceEvent.outline =
          (initTokens s.cfg).reverse ++ .boardInit :: s.trace.map TraceEvent.outline) ∧
      (s.cfg.role = .parent → ∃ c, t.cached s.cfg.regConfig = some c ∧
        t.trace.map TraceEvent.outline =
          (if t.ce = .high then [.ceHigh] else []) ++ (listenTokens s.cfg (withBit c s.cfg.bitPrimRx true)).reverse ++
            ((initTokens s.cfg).reverse ++ .boardInit :: s.trace.map TraceEvent.outline)) ∧
      (s.cfg.present = false → (∀ a ≤ 0x1D, t.cached a = some s.cfg.absentByte) ∧
        (∀ k (h : k < (initValues s.cfg).length), rc.getLsbD k = decide ((initValues s.cfg)[k].2 ≠ s.cfg.absentByte)) ∧
        (t.ce = .high ↔ s.cfg.role = .parent ∧ s.cfg.absentByte.getLsbD s.cfg.bitPrimRx = true)) ∧
      (s.cfg.present = true → s.cfg.legal = true →
        (∀ k (h : k < (bootValues s.cfg).length),
          ((bootValues s.cfg)[k].1 ∉ s.cfg.stuck →
            rc.getLsbD k = false ∧ t.dev.cell s.cfg (bootValues s.cfg)[k].1 0 = some (.known (bootValues s.cfg)[k].2) ∧
              t.cached (bootValues s.cfg)[k].1 = some (bootValues s.cfg)[k].2) ∧
          ((bootValues s.cfg)[k].1 ∈ s.cfg.stuck → ∀ b, s.dev.cell s.cfg (bootValues s.cfg)[k].1 0 = some (.known b) →
            t.dev.cell s.cfg (bootValues s.cfg)[k].1 0 = some (.known b) ∧ t.cached (bootValues s.cfg)[k].1 = some b ∧
              ∀ (h' : k < (initValues s.cfg).length), rc.getLsbD k = decide (b ≠ (initValues s.cfg)[k].2))) ∧
        (s.cfg.regTxAddr ∉ s.cfg.stuck →
          ∀ i < 5, t.dev.cell s.cfg s.cfg.regTxAddr i = (s.cfg.pipeAddr.toList[i]?).map RegCell.known) ∧
        (s.cfg.stuck = [] → rc = 0) ∧
        (s.cfg.regConfig ∉ s.cfg.stuck →
          engineMode s.cfg (t.cached s.cfg.regConfig) t.ce = (match s.cfg.role with
            | .child => .standby
            | .parent => .listening) ∧
          (s.cfg.role = .parent → t.ce = .high ∧
            t.cached s.cfg.regConfig = some (onesAt [s.cfg.bitPwrUp, s.cfg.bitEnCrc, s.cfg.bitCrco, s.cfg.bitPrimRx]) ∧
            t.dev.cell s.cfg s.cfg.regConfig 0 =
              some (.known (onesAt [s.cfg.bitPwrUp, s.cfg.bitEnCrc, s.cfg.bitCrco, s.cfg.bitPrimRx])))))

/-- ChildTick (44_telemetry_loop.md R236, R235, R234): only every `CHILD_DIV`-th tick samples; then the two bytes of the
reading are sent in the host's byte order and the alert sounds exactly once for a reading of 763 or more, whether the send
is carried out, is refused, or fails. In the second clause `transmit_completes` holds, and that the send then returns
within one `exec` is the model's choice for an empty schedule (log 12; `EndTerminatesUnderFairness` is the other case). The
third clause, that a tick goes on after a refusal of its Send, also before Init, is the model's choice (log 22): R236 says
only that the outcome is not tested. A reading nobody supplied is a free value (log 25). -/
def Obligations.ChildTickSamplesAndSends : Prop :=
  (∀ s : State, s.seq = [] → s.tickdiv + 1 ≠ s.cfg.childDiv →
    exec .childTick s = .next { s with
      tickdiv := s.tickdiv + 1
      resp := some { outcome := .ok, d := 0, buf := [] } }) ∧
  (∀ (s : State) (r : Reading) (c : Byte), Ready s → Quiet s → s.tickdiv + 1 = s.cfg.childDiv →
    s.nextReading = r → s.initialised = true → s.ce = .low → 1 ≤ s.cfg.txDepth → s.cfg.txCompletes = true →
    s.cached s.cfg.regConfig = some c → legalValue s.cfg s.cfg.regConfig c = true → c.getLsbD s.cfg.bitPwrUp = true →
    Takes s s.cfg.regConfig → Takes s s.cfg.regStatus →
    ∃ t f, Returns .childTick s { outcome := .ok, d := 0, buf := [] } t ∧ t.tickdiv = 0 ∧ t.sensor = s.sensor.tail ∧
      t.air = s.air ++ [f] ∧
      f.payload = (match s.cfg.hostEndian with
        | .little => [r.extractLsb' 0 8, r.extractLsb' 8 8]
        | .big => [r.extractLsb' 8 8, r.extractLsb' 0 8]) ∧
      alerts .overThreshold t.trace = alerts .overThreshold s.trace + (if 763 ≤ r.toNat then 1 else 0) ∧
      alerts .linkDown t.trace = alerts .linkDown s.trace) ∧
  (∀ s : State, s.seq = [] → s.tickdiv + 1 = s.cfg.childDiv → s.initialised = false ∨ s.ce = .high →
    exec .childTick s = .next { s with
      tickdiv := 0
      sensor := s.sensor.tail
      draws := s.draws + 1
      resp := some { outcome := .ok, d := 0, buf := [] }
      trace := (if 763 ≤ s.nextReading.toNat then [.alert .overThreshold] else []) ++ s.trace }) ∧
  (∀ (s : State) (c b : Byte), Ready s → s.tickdiv + 1 = s.cfg.childDiv → s.initialised = true → s.ce = .low →
    s.cached s.cfg.regConfig = some c → s.cfg.present = true → s.cfg.regConfig ∈ s.cfg.stuck →
    s.dev.cell s.cfg s.cfg.regConfig 0 = some (.known b) → b ≠ withBit c s.cfg.bitPrimRx false →
    ∃ t, Returns .childTick s { outcome := .ok, d := 0, buf := [] } t ∧ t.tickdiv = 0 ∧ t.sensor = s.sensor.tail ∧
      t.ce = .low ∧ t.cache = s.cache ∧ framesOpened t.trace = framesOpened s.trace + 3 ∧
      t.trace.count .ceHigh = s.trace.count .ceHigh ∧
      alerts .overThreshold t.trace = alerts .overThreshold s.trace + (if 763 ≤ s.nextReading.toNat then 1 else 0) ∧
      alerts .linkDown t.trace = alerts .linkDown s.trace)

/-- ParentTick without a reception (44_telemetry_loop.md R239, R241, R242): the countdown is decremented, a zero is
replaced by 10 with exactly one link-down alert, and nothing else of engine, device or host changes. -/
def Obligations.ParentTickWithoutReception : Prop :=
  ∀ s : State, Ready s → Quiet s → 1 ≤ s.countdown → s.cfg.present = true → s.dev.dataReceived = false →
    ∃ t, Returns .parentTick s { outcome := .ok, d := 0, buf := [] } t ∧
      t.countdown = (if s.countdown = 1 then 10 else s.countdown - 1) ∧
      alerts .linkDown t.trace = alerts .linkDown s.trace + (if s.countdown = 1 then 1 else 0) ∧
      alerts .overThreshold t.trace = alerts .overThreshold s.trace ∧
      t.dev = { s.dev with frame := .none } ∧ t.cache = s.cache ∧ t.ce = s.ce ∧ t.air = s.air

/-- ParentTick with a reception (44_telemetry_loop.md R239, R240, R241): the head payload is taken, the receive FIFO
flushed, Listening re-armed with the flags clear, the countdown is 10, the threshold evaluated exactly once. -/
def Obligations.ParentTickTakesOnePayload : Prop :=
  ∀ (s : State) (b0 b1 c : Byte) (more : List Byte) (rest : List (List Byte)),
    Ready s → Quiet s → 1 ≤ s.countdown → s.cfg.present = true → s.dev.dataReceived = true →
    s.dev.rxFifo = (b0 :: b1 :: more) :: rest → s.initialised = true → s.cached s.cfg.regConfig = some c →
    legalValue s.cfg s.cfg.regConfig c = true → Takes s s.cfg.regConfig → Takes s s.cfg.regStatus →
    ∃ t, Returns .parentTick s { outcome := .ok, d := 0, buf := [] } t ∧ t.countdown = 10 ∧ t.dev.rxFifo = [] ∧
      t.dev.dataReceived = false ∧ t.ce = .high ∧
      t.cached s.cfg.regConfig = some (withBit c s.cfg.bitPrimRx true) ∧
      alerts .linkDown t.trace = alerts .linkDown s.trace + (if s.countdown = 1 then 1 else 0) ∧
      alerts .overThreshold t.trace = alerts .overThreshold s.trace +
        (if 763 ≤ (match s.cfg.hostEndian with
          | .little => b1.toNat * 256 + b0.toNat
          | .big => b0.toNat * 256 + b1.toNat) then 1 else 0)

/-- The liveness property (44_telemetry_loop.md R241): from a countdown of 10, with no reception, the link-down alert
fires exactly once in every tenth tick and in no other. -/
def Obligations.LinkDownFiresEveryTenthTick : Prop :=
  ∀ s : State, Ready s → Quiet s → s.countdown = 10 → s.cfg.present = true → s.dev.dataReceived = false →
    ∀ n, ∃ t, parentTicks n s = some t ∧ t.countdown = 10 - n % 10 ∧
      alerts .linkDown t.trace = alerts .linkDown s.trace + n / 10

/-- What the host sees of an absent device (45_device_interpreter.md R276), after an Init that found it absent: the mode
bit of `ABSENT_BYTE` (bit 0 by default) decides whether Send fails at the mode-bit write and StartListening succeeds, its
"data sent" bit (5) whether the poll of End is passed, its "data received" bit (6) what PollReceived reports. -/
def Obligations.AbsentDeviceOutcomes : Prop :=
  ∀ (s : State) (n : Byte) (buf : List Byte), Ready s → s.initialised = true → s.ce = .low → n ≤ 32 →
    n.toNat ≤ buf.length → s.cfg.present = false → s.cached s.cfg.regConfig = some s.cfg.absentByte →
    (s.cfg.absentByte.getLsbD s.cfg.bitPrimRx = true →
      (∃ t, Returns (.send n buf) s { outcome := .fail, d := 0, buf := [] } t ∧ t.ce = .low) ∧
      (∃ t, Returns .startListening s { outcome := .ok, d := 0, buf := [] } t ∧ t.ce = .high)) ∧
    (s.cfg.absentByte.getLsbD s.cfg.bitPrimRx = false →
      (∃ t, Returns .startListening s { outcome := .fail, d := 0, buf := [] } t ∧ t.ce = .low) ∧
      (s.cfg.absentByte.getLsbD s.cfg.bitTxDs = true →
        ∃ t, Returns (.send n buf) s { outcome := .ok, d := 0, buf := [] } t ∧ t.dev = s.dev) ∧
      (s.cfg.absentByte.getLsbD s.cfg.bitTxDs = false → s.inbox = none → s.dev.fault = none →
        ∃ t, exec (.send n buf) s = .next t ∧ Hangs t)) ∧
    (∃ t, Returns .pollReceived s
      { outcome := .ok, d := if s.cfg.absentByte.getLsbD s.cfg.bitRxDr then 1 else 0, buf := [] } t)

/-! Radio steps and the tick. -/

/-- The receive step (45_device_interpreter.md R271, R273): in a gap of an idle node, a frame offered to a listening
device that it matches is taken from the air and, with room in the FIFO, stored with "data received" set, else
dropped; a device that does not listen receives nothing and the frame is lost. That a device whose receive pipe 0 is
disabled does not listen is 70_reset_and_hazards.md R336 (log 37). -/
def Obligations.ReceiveStep : Prop :=
  ∀ (s : State) (i : Nat) (aw : Byte) (f : AirFrame) (later : List (List EnvEvent)) (cb ep ch rf pw aw' : Byte)
    (p0 : List Byte),
    s.seq = [] → s.inbox = none → s.dev.fault = none → s.cfg.present = true → s.env = [.airOffer i aw] :: later →
    s.air[i]? = some f → s.dev.cell s.cfg s.cfg.regConfig 0 = some (.known cb) →
    s.dev.cell s.cfg s.cfg.regEnRxAddr 0 = some (.known ep) →
    s.dev.cell s.cfg s.cfg.regRfCh 0 = some (.known ch) → s.dev.cell s.cfg s.cfg.regRfSetup 0 = some (.known rf) →
    s.dev.cell s.cfg s.cfg.regRxPwP0 0 = some (.known pw) → s.dev.cell s.cfg s.cfg.regSetupAw 0 = some (.known aw') →
    p0.length = 5 → (∀ j < 5, s.dev.cell s.cfg s.cfg.regRxAddrP0 j = (p0[j]?).map RegCell.known) →
    ∃ t, step s = .next t ∧ t.air = s.air.eraseIdx i ∧
      (cb.getLsbD s.cfg.bitPwrUp = true → cb.getLsbD s.cfg.bitPrimRx = true → ep.getLsbD s.cfg.bitErxP0 = true →
        s.ce = .high → f.chan = ch → f.rate.getLsbD s.cfg.bitRfDr = rf.getLsbD s.cfg.bitRfDr →
        f.payload.length = (getField pw (s.cfg.loRxPw + 5) s.cfg.loRxPw).toNat → f.addr = p0 → aw = aw' →
        (s.dev.rxFifo.length < s.cfg.rxDepth →
          t.dev = { s.dev with rxFifo := s.dev.rxFifo ++ [f.payload], dataReceived := true }) ∧
        (s.cfg.rxDepth ≤ s.dev.rxFifo.length → t.dev = s.dev)) ∧
      (cb.getLsbD s.cfg.bitPwrUp = false ∨ cb.getLsbD s.cfg.bitPrimRx = false ∨ ep.getLsbD s.cfg.bitErxP0 = false ∨
          s.ce = .low ∨ f.chan ≠ ch ∨ f.rate.getLsbD s.cfg.bitRfDr ≠ rf.getLsbD s.cfg.bitRfDr ∨
          f.payload.length ≠ (getField pw (s.cfg.loRxPw + 5) s.cfg.loRxPw).toNat → t.dev = s.dev)

/-- Transmit complete (45_device_interpreter.md R270): in a gap of an idle node, the latched frame joins the air, the
head payload leaves the FIFO if the FIFO still holds it, "data sent" is set and the burst is over. Whether it still holds
it is the recorded bit `Burst.held`, the model's choice (log 17). -/
def Obligations.TransmitCompleteStep : Prop :=
  ∀ (s : State) (b : Burst) (later : List (List EnvEvent)),
    s.seq = [] → s.inbox = none → s.dev.fault = none → s.cfg.present = true → s.env = [.transmitComplete] :: later →
    s.dev.burst = some b →
    ∃ t, step s = .next t ∧ t.air = s.air ++ [b.frame] ∧ t.dev = { s.dev with
      burst := none
      dataSent := true
      txFifo := if b.held then s.dev.txFifo.tail else s.dev.txFifo }

/-- The tick (60_exceptions.md R296): delivered only when the tick source is armed, the engine idle and the host
waiting, when it starts the tick routine of the node's role; otherwise it is skipped. -/
def Obligations.TickDelivery : Prop :=
  (∀ (s : State) (later : List (List EnvEvent)), s.seq = [] → s.inbox = none → s.dev.fault = none →
    s.env = [.tick] :: later → s.tickArmed = true →
    ∃ t b, step s = .next t ∧ t.inbox = some b ∧
      decode s.cfg.toOpcodes b = .ok (match s.cfg.role with | .child => .childTick | .parent => .parentTick) ∧ t.dev = s.dev) ∧
  (∀ s : State, s.tickArmed = false ∨ s.seq ≠ [] → applyEvent .tick s = s)

/-! Fields and payloads. -/

/-- The field accessors (41_transceiver_config.md R150): bit by bit, a field read is the bits `hi` to `lo`, and a field
written replaces exactly those, its value cut to their width. -/
def Obligations.FieldAccessors : Prop :=
  ∀ (v f : Byte) (hi lo : Nat), lo ≤ hi → hi ≤ 7 → ∀ i < 8,
    (getField v hi lo).getLsbD i = (decide (i ≤ hi - lo) && v.getLsbD (lo + i)) ∧
    (setField v hi lo f).getLsbD i = if lo ≤ i ∧ i ≤ hi then f.getLsbD (i - lo) else v.getLsbD i

/-- Payload coding (44_telemetry_loop.md R234, 20_memory.md R63 b): the low byte first on a little-endian host, and
decoding undoes encoding whatever the host's byte order. -/
def Obligations.PayloadCoding : Prop :=
  ∀ (e : Endian) (r : Reading), decode16 e (encode16 e r) = r ∧
    encode16 .little r = [r.extractLsb' 0 8, r.extractLsb' 8 8] ∧ encode16 .big r = (encode16 .little r).reverse

/-! Reset. -/

/-- What the spec gives for reset (10_state.md R44, R47, R48), for every configuration and every power-on content of the
device's registers. -/
def Obligations.ResetState : Prop :=
  ∀ (c : Cfg) (b : PowerOnBytes), (State.resetWith c b).cfg = c ∧
    (∀ a, (State.resetWith c b).cached a = none) ∧ (State.resetWith c b).initialised = false ∧
    (State.resetWith c b).seq = [] ∧ (State.resetWith c b).csn = .deasserted ∧ (State.resetWith c b).ce = .low ∧
    (State.resetWith c b).inbox = none ∧ (State.resetWith c b).resp = none ∧ (State.resetWith c b).countdown = 10 ∧
    (State.resetWith c b).tickdiv = 0 ∧ (State.resetWith c b).tickArmed = false ∧ (State.resetWith c b).air = [] ∧
    (State.resetWith c b).dev.dataReceived = false ∧ (State.resetWith c b).dev.dataSent = false ∧
    (State.resetWith c b).dev.maxRetransmit = false ∧ (State.resetWith c b).dev.txFifo = [] ∧
    (State.resetWith c b).dev.rxFifo = [] ∧ (State.resetWith c b).dev.burst = none ∧
    (State.resetWith c b).dev.frame = .none ∧
    (c.mapped = true →
      ∃ v, (State.resetWith c b).dev.cell c c.regConfig 0 = some (.known v) ∧ v.getLsbD c.bitPwrUp = false)

/-- The invariant holds after reset, for every legal configuration. -/
def Obligations.ResetMeetsTheInvariant : Prop :=
  (∀ (c : Cfg) (b : PowerOnBytes), c.legal = true → Inv (State.resetWith c b)) ∧ Inv State.reset

/-! Invariants and frames of the whole machine. -/

/-- Every step keeps the invariant `Inv`: the framing discipline of the bus (40_register_interface.md R121), the
device's view of it, where an operation can wait, FIFO and stack bounds (10_state.md R24, R42), the ranges of the
counters (44_telemetry_loop.md R242), a populated cache once initialised (10_state.md R21, R22). -/
def Obligations.EveryStepKeepsTheInvariant : Prop :=
  ∀ s t : State, s.cfg.legal = true → Inv s → step s = .next t → Inv t

/-- No step changes the configuration inputs, the role among them (10_state.md R45 "fixed for the life of the node"),
and initialisation is never undone (10_state.md R22). -/
def Obligations.ConfigurationNeverChanges : Prop :=
  ∀ s t : State, step s = .next t → t.cfg = s.cfg ∧ (s.initialised = true → t.initialised = true)

/-- The frame of the cache (10_state.md R21, R49): an entry changes only by the baseline read or a validated write of
that register. -/
def Obligations.CacheFrame : Prop :=
  ∀ (i : Instr) (s t : State) (a : Byte), exec i s = .next t → mayCache s.cfg a i = false → t.cached a = s.cached a

/-- The frame of the device's registers (20_memory.md R61, R67): whatever the other agents do, a byte of a register
changes only by an instruction that writes that register. -/
def Obligations.DeviceRegisterFrame : Prop :=
  ∀ (i : Instr) (s t : State) (a : Byte) (j : Nat), s.cfg.mapped = true → exec i s = .next t →
    mayStore s.cfg a i = false →
    t.dev.cell s.cfg a j = s.dev.cell s.cfg a j

/-- The frame of the enable line (43_mode_controller.md R218 "No other operation changes `ce`"): only entering or
leaving Listening, and Boot, leave the line at another level. -/
def Obligations.EnableLineFrame : Prop :=
  ∀ (i : Instr) (s t : State), exec i s = .next t → mayMoveLine i = false → t.ce = s.ce

/-- The frame of the device's flags and FIFOs when no other agent steps (10_state.md R35, 20_memory.md R61): each
changes only by an instruction that names it. -/
def Obligations.FlagAndFifoFrame : Prop :=
  ∀ (i : Instr) (s t : State), s.cfg.mapped = true → Quiet s → exec i s = .next t →
    (mayFlag s.cfg i = false → t.dev.dataReceived = s.dev.dataReceived ∧ t.dev.dataSent = s.dev.dataSent ∧
      t.dev.maxRetransmit = s.dev.maxRetransmit) ∧
    (mayTxFifo s.cfg i = false → t.dev.txFifo = s.dev.txFifo) ∧
    (mayRxFifo s.cfg i = false → t.dev.rxFifo = s.dev.rxFifo)

/-- The frame of the host's state (10_state.md R45, 40_register_interface.md R130): only ParentTick moves the countdown,
only ChildTick the divider and the sensor, only Boot arms the tick, only Init and Boot initialise, and only the host's
routines sound an alert. -/
def Obligations.HostStateFrame : Prop :=
  ∀ (i : Instr) (s t : State), exec i s = .next t →
    (i ≠ .parentTick → t.countdown = s.countdown ∧ alerts .linkDown t.trace = alerts .linkDown s.trace) ∧
    (i ≠ .childTick → t.tickdiv = s.tickdiv ∧ t.sensor = s.sensor) ∧
    (i ≠ .boot → t.tickArmed = s.tickArmed) ∧
    (i ≠ .init → i ≠ .boot → t.initialised = s.initialised) ∧
    (i ≠ .childTick → i ≠ .parentTick → alerts .overThreshold t.trace = alerts .overThreshold s.trace)
end

