-- ==== Sys2Proof/Laws/State.lean ====
section
/-! SUPPORT. The plain-data state: what each update of State and of Device leaves in every field, by rfl. -/

namespace Sys2Proof.Machine

/-! `State.advanced`. -/

@[simp] theorem State.advanced_cfg (s : State) : (s.advanced).cfg = s.cfg := rfl
@[simp] theorem State.advanced_cache (s : State) : (s.advanced).cache = s.cache := rfl
@[simp] theorem State.advanced_initialised (s : State) : (s.advanced).initialised = s.initialised := rfl
@[simp] theorem State.advanced_csn (s : State) : (s.advanced).csn = s.csn := rfl
@[simp] theorem State.advanced_ce (s : State) : (s.advanced).ce = s.ce := rfl
@[simp] theorem State.advanced_seq (s : State) : (s.advanced).seq = advance s.seq := rfl
@[simp] theorem State.advanced_port (s : State) : (s.advanced).port = s.port := rfl
@[simp] theorem State.advanced_inbox (s : State) : (s.advanced).inbox = s.inbox := rfl
@[simp] theorem State.advanced_resp (s : State) : (s.advanced).resp = s.resp := rfl
@[simp] theorem State.advanced_dev (s : State) : (s.advanced).dev = s.dev := rfl
@[simp] theorem State.advanced_countdown (s : State) : (s.advanced).countdown = s.countdown := rfl
@[simp] theorem State.advanced_tickdiv (s : State) : (s.advanced).tickdiv = s.tickdiv := rfl
@[simp] theorem State.advanced_tickArmed (s : State) : (s.advanced).tickArmed = s.tickArmed := rfl
@[simp] theorem State.advanced_sensor (s : State) : (s.advanced).sensor = s.sensor := rfl
@[simp] theorem State.advanced_air (s : State) : (s.advanced).air = s.air := rfl
@[simp] theorem State.advanced_env (s : State) : (s.advanced).env = s.env := rfl
@[simp] theorem State.advanced_draws (s : State) : (s.advanced).draws = s.draws := rfl
@[simp] theorem State.advanced_trace (s : State) : (s.advanced).trace = s.trace := rfl

/-! `State.withTop`. -/

@[simp] theorem State.withTop_cfg (f : Position → Position) (s : State) : (s.withTop f).cfg = s.cfg := rfl
@[simp] theorem State.withTop_cache (f : Position → Position) (s : State) : (s.withTop f).cache = s.cache := rfl
@[simp] theorem State.withTop_initialised (f : Position → Position) (s : State) : (s.withTop f).initialised = s.initialised := rfl
@[simp] theorem State.withTop_csn (f : Position → Position) (s : State) : (s.withTop f).csn = s.csn := rfl
@[simp] theorem State.withTop_ce (f : Position → Position) (s : State) : (s.withTop f).ce = s.ce := rfl
@[simp] theorem State.withTop_seq (f : Position → Position) (s : State) : (s.withTop f).seq = mapTop f s.seq := rfl
@[simp] theorem State.withTop_port (f : Position → Position) (s : State) : (s.withTop f).port = s.port := rfl
@[simp] theorem State.withTop_inbox (f : Position → Position) (s : State) : (s.withTop f).inbox = s.inbox := rfl
@[simp] theorem State.withTop_resp (f : Position → Position) (s : State) : (s.withTop f).resp = s.resp := rfl
@[simp] theorem State.withTop_dev (f : Position → Position) (s : State) : (s.withTop f).dev = s.dev := rfl
@[simp] theorem State.withTop_countdown (f : Position → Position) (s : State) : (s.withTop f).countdown = s.countdown := rfl
@[simp] theorem State.withTop_tickdiv (f : Position → Position) (s : State) : (s.withTop f).tickdiv = s.tickdiv := rfl
@[simp] theorem State.withTop_tickArmed (f : Position → Position) (s : State) : (s.withTop f).tickArmed = s.tickArmed := rfl
@[simp] theorem State.withTop_sensor (f : Position → Position) (s : State) : (s.withTop f).sensor = s.sensor := rfl
@[simp] theorem State.withTop_air (f : Position → Position) (s : State) : (s.withTop f).air = s.air := rfl
@[simp] theorem State.withTop_env (f : Position → Position) (s : State) : (s.withTop f).env = s.env := rfl
@[simp] theorem State.withTop_draws (f : Position → Position) (s : State) : (s.withTop f).draws = s.draws := rfl
@[simp] theorem State.withTop_trace (f : Position → Position) (s : State) : (s.withTop f).trace = s.trace := rfl

/-! `State.atAction`. -/

@[simp] theorem State.atAction_cfg (k : Nat) (s : State) : (s.atAction k).cfg = s.cfg := rfl
@[simp] theorem State.atAction_cache (k : Nat) (s : State) : (s.atAction k).cache = s.cache := rfl
@[simp] theorem State.atAction_initialised (k : Nat) (s : State) : (s.atAction k).initialised = s.initialised := rfl
@[simp] theorem State.atAction_csn (k : Nat) (s : State) : (s.atAction k).csn = s.csn := rfl
@[simp] theorem State.atAction_ce (k : Nat) (s : State) : (s.atAction k).ce = s.ce := rfl
@[simp] theorem State.atAction_seq (k : Nat) (s : State) : (s.atAction k).seq = mapTop (fun p => { p with k := k }) s.seq := rfl
@[simp] theorem State.atAction_port (k : Nat) (s : State) : (s.atAction k).port = s.port := rfl
@[simp] theorem State.atAction_inbox (k : Nat) (s : State) : (s.atAction k).inbox = s.inbox := rfl
@[simp] theorem State.atAction_resp (k : Nat) (s : State) : (s.atAction k).resp = s.resp := rfl
@[simp] theorem State.atAction_dev (k : Nat) (s : State) : (s.atAction k).dev = s.dev := rfl
@[simp] theorem State.atAction_countdown (k : Nat) (s : State) : (s.atAction k).countdown = s.countdown := rfl
@[simp] theorem State.atAction_tickdiv (k : Nat) (s : State) : (s.atAction k).tickdiv = s.tickdiv := rfl
@[simp] theorem State.atAction_tickArmed (k : Nat) (s : State) : (s.atAction k).tickArmed = s.tickArmed := rfl
@[simp] theorem State.atAction_sensor (k : Nat) (s : State) : (s.atAction k).sensor = s.sensor := rfl
@[simp] theorem State.atAction_air (k : Nat) (s : State) : (s.atAction k).air = s.air := rfl
@[simp] theorem State.atAction_env (k : Nat) (s : State) : (s.atAction k).env = s.env := rfl
@[simp] theorem State.atAction_draws (k : Nat) (s : State) : (s.atAction k).draws = s.draws := rfl
@[simp] theorem State.atAction_trace (k : Nat) (s : State) : (s.atAction k).trace = s.trace := rfl

/-! `accepted`. -/

@[simp] theorem accepted_cfg (t : Task) (s : State) : (accepted t s).cfg = s.cfg := rfl
@[simp] theorem accepted_cache (t : Task) (s : State) : (accepted t s).cache = s.cache := rfl
@[simp] theorem accepted_initialised (t : Task) (s : State) : (accepted t s).initialised = s.initialised := rfl
@[simp] theorem accepted_csn (t : Task) (s : State) : (accepted t s).csn = s.csn := rfl
@[simp] theorem accepted_ce (t : Task) (s : State) : (accepted t s).ce = s.ce := rfl
@[simp] theorem accepted_seq (t : Task) (s : State) : (accepted t s).seq = Position.mk t 0 Locals.start :: s.seq := rfl
@[simp] theorem accepted_port (t : Task) (s : State) : (accepted t s).port = s.port := rfl
@[simp] theorem accepted_inbox (t : Task) (s : State) : (accepted t s).inbox = s.inbox := rfl
@[simp] theorem accepted_resp (t : Task) (s : State) : (accepted t s).resp = none := rfl
@[simp] theorem accepted_dev (t : Task) (s : State) : (accepted t s).dev = s.dev := rfl
@[simp] theorem accepted_countdown (t : Task) (s : State) : (accepted t s).countdown = s.countdown := rfl
@[simp] theorem accepted_tickdiv (t : Task) (s : State) : (accepted t s).tickdiv = s.tickdiv := rfl
@[simp] theorem accepted_tickArmed (t : Task) (s : State) : (accepted t s).tickArmed = s.tickArmed := rfl
@[simp] theorem accepted_sensor (t : Task) (s : State) : (accepted t s).sensor = s.sensor := rfl
@[simp] theorem accepted_air (t : Task) (s : State) : (accepted t s).air = s.air := rfl
@[simp] theorem accepted_env (t : Task) (s : State) : (accepted t s).env = s.env := rfl
@[simp] theorem accepted_draws (t : Task) (s : State) : (accepted t s).draws = s.draws := rfl
@[simp] theorem accepted_trace (t : Task) (s : State) : (accepted t s).trace = s.trace := rfl

/-! `State.stamped`. -/

@[simp] theorem State.stamped_cfg (e : TraceEvent) (s : State) : (s.stamped e).cfg = s.cfg := rfl
@[simp] theorem State.stamped_cache (e : TraceEvent) (s : State) : (s.stamped e).cache = s.cache := rfl
@[simp] theorem State.stamped_initialised (e : TraceEvent) (s : State) : (s.stamped e).initialised = s.initialised := rfl
@[simp] theorem State.stamped_csn (e : TraceEvent) (s : State) : (s.stamped e).csn = s.csn := rfl
@[simp] theorem State.stamped_ce (e : TraceEvent) (s : State) : (s.stamped e).ce = s.ce := rfl
@[simp] theorem State.stamped_seq (e : TraceEvent) (s : State) : (s.stamped e).seq = advance s.seq := rfl
@[simp] theorem State.stamped_port (e : TraceEvent) (s : State) : (s.stamped e).port = s.port := rfl
@[simp] theorem State.stamped_inbox (e : TraceEvent) (s : State) : (s.stamped e).inbox = s.inbox := rfl
@[simp] theorem State.stamped_resp (e : TraceEvent) (s : State) : (s.stamped e).resp = s.resp := rfl
@[simp] theorem State.stamped_dev (e : TraceEvent) (s : State) : (s.stamped e).dev = s.dev := rfl
@[simp] theorem State.stamped_countdown (e : TraceEvent) (s : State) : (s.stamped e).countdown = s.countdown := rfl
@[simp] theorem State.stamped_tickdiv (e : TraceEvent) (s : State) : (s.stamped e).tickdiv = s.tickdiv := rfl
@[simp] theorem State.stamped_tickArmed (e : TraceEvent) (s : State) : (s.stamped e).tickArmed = s.tickArmed := rfl
@[simp] theorem State.stamped_sensor (e : TraceEvent) (s : State) : (s.stamped e).sensor = s.sensor := rfl
@[simp] theorem State.stamped_air (e : TraceEvent) (s : State) : (s.stamped e).air = s.air := rfl
@[simp] theorem State.stamped_env (e : TraceEvent) (s : State) : (s.stamped e).env = s.env := rfl
@[simp] theorem State.stamped_draws (e : TraceEvent) (s : State) : (s.stamped e).draws = s.draws := rfl
@[simp] theorem State.stamped_trace (e : TraceEvent) (s : State) : (s.stamped e).trace = e :: s.trace := rfl

/-! `State.entering`. -/

@[simp] theorem State.entering_cfg (t : Task) (s : State) : (s.entering t).cfg = s.cfg := rfl
@[simp] theorem State.entering_cache (t : Task) (s : State) : (s.entering t).cache = s.cache := rfl
@[simp] theorem State.entering_initialised (t : Task) (s : State) : (s.entering t).initialised = s.initialised := rfl
@[simp] theorem State.entering_csn (t : Task) (s : State) : (s.entering t).csn = s.csn := rfl
@[simp] theorem State.entering_ce (t : Task) (s : State) : (s.entering t).ce = s.ce := rfl
@[simp] theorem State.entering_seq (t : Task) (s : State) : (s.entering t).seq = Position.mk t 0 Locals.start :: s.seq := rfl
@[simp] theorem State.entering_port (t : Task) (s : State) : (s.entering t).port = s.port := rfl
@[simp] theorem State.entering_inbox (t : Task) (s : State) : (s.entering t).inbox = s.inbox := rfl
@[simp] theorem State.entering_resp (t : Task) (s : State) : (s.entering t).resp = s.resp := rfl
@[simp] theorem State.entering_dev (t : Task) (s : State) : (s.entering t).dev = s.dev := rfl
@[simp] theorem State.entering_countdown (t : Task) (s : State) : (s.entering t).countdown = s.countdown := rfl
@[simp] theorem State.entering_tickdiv (t : Task) (s : State) : (s.entering t).tickdiv = s.tickdiv := rfl
@[simp] theorem State.entering_tickArmed (t : Task) (s : State) : (s.entering t).tickArmed = s.tickArmed := rfl
@[simp] theorem State.entering_sensor (t : Task) (s : State) : (s.entering t).sensor = s.sensor := rfl
@[simp] theorem State.entering_air (t : Task) (s : State) : (s.entering t).air = s.air := rfl
@[simp] theorem State.entering_env (t : Task) (s : State) : (s.entering t).env = s.env := rfl
@[simp] theorem State.entering_draws (t : Task) (s : State) : (s.entering t).draws = s.draws := rfl
@[simp] theorem State.entering_trace (t : Task) (s : State) : (s.entering t).trace = s.trace := rfl

/-! `State.leaving`. -/

@[simp] theorem State.leaving_cfg (s : State) : (s.leaving).cfg = s.cfg := rfl
@[simp] theorem State.leaving_cache (s : State) : (s.leaving).cache = s.cache := rfl
@[simp] theorem State.leaving_initialised (s : State) : (s.leaving).initialised = s.initialised := rfl
@[simp] theorem State.leaving_csn (s : State) : (s.leaving).csn = s.csn := rfl
@[simp] theorem State.leaving_ce (s : State) : (s.leaving).ce = s.ce := rfl
@[simp] theorem State.leaving_seq (s : State) : (s.leaving).seq = popped s.seq := rfl
@[simp] theorem State.leaving_port (s : State) : (s.leaving).port = s.port := rfl
@[simp] theorem State.leaving_inbox (s : State) : (s.leaving).inbox = s.inbox := rfl
@[simp] theorem State.leaving_resp (s : State) : (s.leaving).resp = s.resp := rfl
@[simp] theorem State.leaving_dev (s : State) : (s.leaving).dev = s.dev := rfl
@[simp] theorem State.leaving_countdown (s : State) : (s.leaving).countdown = s.countdown := rfl
@[simp] theorem State.leaving_tickdiv (s : State) : (s.leaving).tickdiv = s.tickdiv := rfl
@[simp] theorem State.leaving_tickArmed (s : State) : (s.leaving).tickArmed = s.tickArmed := rfl
@[simp] theorem State.leaving_sensor (s : State) : (s.leaving).sensor = s.sensor := rfl
@[simp] theorem State.leaving_air (s : State) : (s.leaving).air = s.air := rfl
@[simp] theorem State.leaving_env (s : State) : (s.leaving).env = s.env := rfl
@[simp] theorem State.leaving_draws (s : State) : (s.leaving).draws = s.draws := rfl
@[simp] theorem State.leaving_trace (s : State) : (s.leaving).trace = s.trace := rfl

/-! `State.unanswered`. -/

@[simp] theorem State.unanswered_cfg (s : State) : (s.unanswered).cfg = s.cfg := rfl
@[simp] theorem State.unanswered_cache (s : State) : (s.unanswered).cache = s.cache := rfl
@[simp] theorem State.unanswered_initialised (s : State) : (s.unanswered).initialised = s.initialised := rfl
@[simp] theorem State.unanswered_csn (s : State) : (s.unanswered).csn = s.csn := rfl
@[simp] theorem State.unanswered_ce (s : State) : (s.unanswered).ce = s.ce := rfl
@[simp] theorem State.unanswered_seq (s : State) : (s.unanswered).seq = s.seq := rfl
@[simp] theorem State.unanswered_port (s : State) : (s.unanswered).port = s.port := rfl
@[simp] theorem State.unanswered_inbox (s : State) : (s.unanswered).inbox = s.inbox := rfl
@[simp] theorem State.unanswered_resp (s : State) : (s.unanswered).resp = none := rfl
@[simp] theorem State.unanswered_dev (s : State) : (s.unanswered).dev = s.dev := rfl
@[simp] theorem State.unanswered_countdown (s : State) : (s.unanswered).countdown = s.countdown := rfl
@[simp] theorem State.unanswered_tickdiv (s : State) : (s.unanswered).tickdiv = s.tickdiv := rfl
@[simp] theorem State.unanswered_tickArmed (s : State) : (s.unanswered).tickArmed = s.tickArmed := rfl
@[simp] theorem State.unanswered_sensor (s : State) : (s.unanswered).sensor = s.sensor := rfl
@[simp] theorem State.unanswered_air (s : State) : (s.unanswered).air = s.air := rfl
@[simp] theorem State.unanswered_env (s : State) : (s.unanswered).env = s.env := rfl
@[simp] theorem State.unanswered_draws (s : State) : (s.unanswered).draws = s.draws := rfl
@[simp] theorem State.unanswered_trace (s : State) : (s.unanswered).trace = s.trace := rfl

/-! `finishOperation`. -/

@[simp] theorem finishOperation_cfg (r : Reply) (s : State) : (finishOperation r s).cfg = s.cfg := rfl
@[simp] theorem finishOperation_cache (r : Reply) (s : State) : (finishOperation r s).cache = s.cache := rfl
@[simp] theorem finishOperation_initialised (r : Reply) (s : State) : (finishOperation r s).initialised = s.initialised := rfl
@[simp] theorem finishOperation_csn (r : Reply) (s : State) : (finishOperation r s).csn = s.csn := rfl
@[simp] theorem finishOperation_ce (r : Reply) (s : State) : (finishOperation r s).ce = s.ce := rfl
@[simp] theorem finishOperation_seq (r : Reply) (s : State) : (finishOperation r s).seq = s.seq := rfl
@[simp] theorem finishOperation_port (r : Reply) (s : State) : (finishOperation r s).port = s.port := rfl
@[simp] theorem finishOperation_inbox (r : Reply) (s : State) : (finishOperation r s).inbox = s.inbox := rfl
@[simp] theorem finishOperation_resp (r : Reply) (s : State) : (finishOperation r s).resp = some r := rfl
@[simp] theorem finishOperation_dev (r : Reply) (s : State) : (finishOperation r s).dev = s.dev := rfl
@[simp] theorem finishOperation_countdown (r : Reply) (s : State) : (finishOperation r s).countdown = s.countdown := rfl
@[simp] theorem finishOperation_tickdiv (r : Reply) (s : State) : (finishOperation r s).tickdiv = s.tickdiv := rfl
@[simp] theorem finishOperation_tickArmed (r : Reply) (s : State) : (finishOperation r s).tickArmed = s.tickArmed := rfl
@[simp] theorem finishOperation_sensor (r : Reply) (s : State) : (finishOperation r s).sensor = s.sensor := rfl
@[simp] theorem finishOperation_air (r : Reply) (s : State) : (finishOperation r s).air = s.air := rfl
@[simp] theorem finishOperation_env (r : Reply) (s : State) : (finishOperation r s).env = s.env := rfl
@[simp] theorem finishOperation_draws (r : Reply) (s : State) : (finishOperation r s).draws = s.draws := rfl
@[simp] theorem finishOperation_trace (r : Reply) (s : State) : (finishOperation r s).trace = s.trace := rfl

/-! `refuse`. -/

@[simp] theorem refuse_cfg (why : RefuseReason) (s : State) : (refuse why s).cfg = s.cfg := rfl
@[simp] theorem refuse_cache (why : RefuseReason) (s : State) : (refuse why s).cache = s.cache := rfl
@[simp] theorem refuse_initialised (why : RefuseReason) (s : State) : (refuse why s).initialised = s.initialised := rfl
@[simp] theorem refuse_csn (why : RefuseReason) (s : State) : (refuse why s).csn = s.csn := rfl
@[simp] theorem refuse_ce (why : RefuseReason) (s : State) : (refuse why s).ce = s.ce := rfl
@[simp] theorem refuse_seq (why : RefuseReason) (s : State) : (refuse why s).seq = s.seq := rfl
@[simp] theorem refuse_port (why : RefuseReason) (s : State) : (refuse why s).port = s.port := rfl
@[simp] theorem refuse_inbox (why : RefuseReason) (s : State) : (refuse why s).inbox = s.inbox := rfl
@[simp] theorem refuse_resp (why : RefuseReason) (s : State) : (refuse why s).resp = some (Reply.refusedFor why) := rfl
@[simp] theorem refuse_dev (why : RefuseReason) (s : State) : (refuse why s).dev = s.dev := rfl
@[simp] theorem refuse_countdown (why : RefuseReason) (s : State) : (refuse why s).countdown = s.countdown := rfl
@[simp] theorem refuse_tickdiv (why : RefuseReason) (s : State) : (refuse why s).tickdiv = s.tickdiv := rfl
@[simp] theorem refuse_tickArmed (why : RefuseReason) (s : State) : (refuse why s).tickArmed = s.tickArmed := rfl
@[simp] theorem refuse_sensor (why : RefuseReason) (s : State) : (refuse why s).sensor = s.sensor := rfl
@[simp] theorem refuse_air (why : RefuseReason) (s : State) : (refuse why s).air = s.air := rfl
@[simp] theorem refuse_env (why : RefuseReason) (s : State) : (refuse why s).env = s.env := rfl
@[simp] theorem refuse_draws (why : RefuseReason) (s : State) : (refuse why s).draws = s.draws := rfl
@[simp] theorem refuse_trace (why : RefuseReason) (s : State) : (refuse why s).trace = s.trace := rfl

/-! `fetched`. -/

@[simp] theorem fetched_cfg (s : State) : (fetched s).cfg = s.cfg := rfl
@[simp] theorem fetched_cache (s : State) : (fetched s).cache = s.cache := rfl
@[simp] theorem fetched_initialised (s : State) : (fetched s).initialised = s.initialised := rfl
@[simp] theorem fetched_csn (s : State) : (fetched s).csn = s.csn := rfl
@[simp] theorem fetched_ce (s : State) : (fetched s).ce = s.ce := rfl
@[simp] theorem fetched_seq (s : State) : (fetched s).seq = s.seq := rfl
@[simp] theorem fetched_port (s : State) : (fetched s).port = s.port := rfl
@[simp] theorem fetched_inbox (s : State) : (fetched s).inbox = none := rfl
@[simp] theorem fetched_resp (s : State) : (fetched s).resp = s.resp := rfl
@[simp] theorem fetched_dev (s : State) : (fetched s).dev = s.dev := rfl
@[simp] theorem fetched_countdown (s : State) : (fetched s).countdown = s.countdown := rfl
@[simp] theorem fetched_tickdiv (s : State) : (fetched s).tickdiv = s.tickdiv := rfl
@[simp] theorem fetched_tickArmed (s : State) : (fetched s).tickArmed = s.tickArmed := rfl
@[simp] theorem fetched_sensor (s : State) : (fetched s).sensor = s.sensor := rfl
@[simp] theorem fetched_air (s : State) : (fetched s).air = s.air := rfl
@[simp] theorem fetched_env (s : State) : (fetched s).env = s.env := rfl
@[simp] theorem fetched_draws (s : State) : (fetched s).draws = s.draws := rfl
@[simp] theorem fetched_trace (s : State) : (fetched s).trace = s.trace := rfl

/-! `State.setCached`. -/

@[simp] theorem State.setCached_cfg (a v : Byte) (s : State) : (s.setCached a v).cfg = s.cfg := rfl
@[simp] theorem State.setCached_cache (a v : Byte) (s : State) : (s.setCached a v).cache = fileSet s.cache a.toNat (some v) := rfl
@[simp] theorem State.setCached_initialised (a v : Byte) (s : State) : (s.setCached a v).initialised = s.initialised := rfl
@[simp] theorem State.setCached_csn (a v : Byte) (s : State) : (s.setCached a v).csn = s.csn := rfl
@[simp] theorem State.setCached_ce (a v : Byte) (s : State) : (s.setCached a v).ce = s.ce := rfl
@[simp] theorem State.setCached_seq (a v : Byte) (s : State) : (s.setCached a v).seq = s.seq := rfl
@[simp] theorem State.setCached_port (a v : Byte) (s : State) : (s.setCached a v).port = s.port := rfl
@[simp] theorem State.setCached_inbox (a v : Byte) (s : State) : (s.setCached a v).inbox = s.inbox := rfl
@[simp] theorem State.setCached_resp (a v : Byte) (s : State) : (s.setCached a v).resp = s.resp := rfl
@[simp] theorem State.setCached_dev (a v : Byte) (s : State) : (s.setCached a v).dev = s.dev := rfl
@[simp] theorem State.setCached_countdown (a v : Byte) (s : State) : (s.setCached a v).countdown = s.countdown := rfl
@[simp] theorem State.setCached_tickdiv (a v : Byte) (s : State) : (s.setCached a v).tickdiv = s.tickdiv := rfl
@[simp] theorem State.setCached_tickArmed (a v : Byte) (s : State) : (s.setCached a v).tickArmed = s.tickArmed := rfl
@[simp] theorem State.setCached_sensor (a v : Byte) (s : State) : (s.setCached a v).sensor = s.sensor := rfl
@[simp] theorem State.setCached_air (a v : Byte) (s : State) : (s.setCached a v).air = s.air := rfl
@[simp] theorem State.setCached_env (a v : Byte) (s : State) : (s.setCached a v).env = s.env := rfl
@[simp] theorem State.setCached_draws (a v : Byte) (s : State) : (s.setCached a v).draws = s.draws := rfl
@[simp] theorem State.setCached_trace (a v : Byte) (s : State) : (s.setCached a v).trace = s.trace := rfl

/-! `State.cachedShifted`. -/

@[simp] theorem State.cachedShifted_cfg (a : Byte) (s : State) : (s.cachedShifted a).cfg = s.cfg := rfl
@[simp] theorem State.cachedShifted_cache (a : Byte) (s : State) : (s.cachedShifted a).cache = fileSet s.cache a.toNat (some s.port.shiftIn) := rfl
@[simp] theorem State.cachedShifted_initialised (a : Byte) (s : State) : (s.cachedShifted a).initialised = s.initialised := rfl
@[simp] theorem State.cachedShifted_csn (a : Byte) (s : State) : (s.cachedShifted a).csn = s.csn := rfl
@[simp] theorem State.cachedShifted_ce (a : Byte) (s : State) : (s.cachedShifted a).ce = s.ce := rfl
@[simp] theorem State.cachedShifted_seq (a : Byte) (s : State) : (s.cachedShifted a).seq = s.seq := rfl
@[simp] theorem State.cachedShifted_port (a : Byte) (s : State) : (s.cachedShifted a).port = s.port := rfl
@[simp] theorem State.cachedShifted_inbox (a : Byte) (s : State) : (s.cachedShifted a).inbox = s.inbox := rfl
@[simp] theorem State.cachedShifted_resp (a : Byte) (s : State) : (s.cachedShifted a).resp = s.resp := rfl
@[simp] theorem State.cachedShifted_dev (a : Byte) (s : State) : (s.cachedShifted a).dev = s.dev := rfl
@[simp] theorem State.cachedShifted_countdown (a : Byte) (s : State) : (s.cachedShifted a).countdown = s.countdown := rfl
@[simp] theorem State.cachedShifted_tickdiv (a : Byte) (s : State) : (s.cachedShifted a).tickdiv = s.tickdiv := rfl
@[simp] theorem State.cachedShifted_tickArmed (a : Byte) (s : State) : (s.cachedShifted a).tickArmed = s.tickArmed := rfl
@[simp] theorem State.cachedShifted_sensor (a : Byte) (s : State) : (s.cachedShifted a).sensor = s.sensor := rfl
@[simp] theorem State.cachedShifted_air (a : Byte) (s : State) : (s.cachedShifted a).air = s.air := rfl
@[simp] theorem State.cachedShifted_env (a : Byte) (s : State) : (s.cachedShifted a).env = s.env := rfl
@[simp] theorem State.cachedShifted_draws (a : Byte) (s : State) : (s.cachedShifted a).draws = s.draws := rfl
@[simp] theorem State.cachedShifted_trace (a : Byte) (s : State) : (s.cachedShifted a).trace = s.trace := rfl

/-! `State.nowInitialised`. -/

@[simp] theorem State.nowInitialised_cfg (s : State) : (s.nowInitialised).cfg = s.cfg := rfl
@[simp] theorem State.nowInitialised_cache (s : State) : (s.nowInitialised).cache = s.cache := rfl
@[simp] theorem State.nowInitialised_initialised (s : State) : (s.nowInitialised).initialised = true := rfl
@[simp] theorem State.nowInitialised_csn (s : State) : (s.nowInitialised).csn = s.csn := rfl
@[simp] theorem State.nowInitialised_ce (s : State) : (s.nowInitialised).ce = s.ce := rfl
@[simp] theorem State.nowInitialised_seq (s : State) : (s.nowInitialised).seq = s.seq := rfl
@[simp] theorem State.nowInitialised_port (s : State) : (s.nowInitialised).port = s.port := rfl
@[simp] theorem State.nowInitialised_inbox (s : State) : (s.nowInitialised).inbox = s.inbox := rfl
@[simp] theorem State.nowInitialised_resp (s : State) : (s.nowInitialised).resp = s.resp := rfl
@[simp] theorem State.nowInitialised_dev (s : State) : (s.nowInitialised).dev = s.dev := rfl
@[simp] theorem State.nowInitialised_countdown (s : State) : (s.nowInitialised).countdown = s.countdown := rfl
@[simp] theorem State.nowInitialised_tickdiv (s : State) : (s.nowInitialised).tickdiv = s.tickdiv := rfl
@[simp] theorem State.nowInitialised_tickArmed (s : State) : (s.nowInitialised).tickArmed = s.tickArmed := rfl
@[simp] theorem State.nowInitialised_sensor (s : State) : (s.nowInitialised).sensor = s.sensor := rfl
@[simp] theorem State.nowInitialised_air (s : State) : (s.nowInitialised).air = s.air := rfl
@[simp] theorem State.nowInitialised_env (s : State) : (s.nowInitialised).env = s.env := rfl
@[simp] theorem State.nowInitialised_draws (s : State) : (s.nowInitialised).draws = s.draws := rfl
@[simp] theorem State.nowInitialised_trace (s : State) : (s.nowInitialised).trace = s.trace := rfl

/-! `State.selected`. -/

@[simp] theorem State.selected_cfg (s : State) : (s.selected).cfg = s.cfg := rfl
@[simp] theorem State.selected_cache (s : State) : (s.selected).cache = s.cache := rfl
@[simp] theorem State.selected_initialised (s : State) : (s.selected).initialised = s.initialised := rfl
@[simp] theorem State.selected_csn (s : State) : (s.selected).csn = .asserted := rfl
@[simp] theorem State.selected_ce (s : State) : (s.selected).ce = s.ce := rfl
@[simp] theorem State.selected_seq (s : State) : (s.selected).seq = s.seq := rfl
@[simp] theorem State.selected_port (s : State) : (s.selected).port = s.port := rfl
@[simp] theorem State.selected_inbox (s : State) : (s.selected).inbox = s.inbox := rfl
@[simp] theorem State.selected_resp (s : State) : (s.selected).resp = s.resp := rfl
@[simp] theorem State.selected_dev (s : State) : (s.selected).dev = s.onDevice Device.select := rfl
@[simp] theorem State.selected_countdown (s : State) : (s.selected).countdown = s.countdown := rfl
@[simp] theorem State.selected_tickdiv (s : State) : (s.selected).tickdiv = s.tickdiv := rfl
@[simp] theorem State.selected_tickArmed (s : State) : (s.selected).tickArmed = s.tickArmed := rfl
@[simp] theorem State.selected_sensor (s : State) : (s.selected).sensor = s.sensor := rfl
@[simp] theorem State.selected_air (s : State) : (s.selected).air = s.air := rfl
@[simp] theorem State.selected_env (s : State) : (s.selected).env = s.env := rfl
@[simp] theorem State.selected_draws (s : State) : (s.selected).draws = s.draws := rfl
@[simp] theorem State.selected_trace (s : State) : (s.selected).trace = s.trace := rfl

/-! `State.deselected`. -/

@[simp] theorem State.deselected_cfg (s : State) : (s.deselected).cfg = s.cfg := rfl
@[simp] theorem State.deselected_cache (s : State) : (s.deselected).cache = s.cache := rfl
@[simp] theorem State.deselected_initialised (s : State) : (s.deselected).initialised = s.initialised := rfl
@[simp] theorem State.deselected_csn (s : State) : (s.deselected).csn = .deasserted := rfl
@[simp] theorem State.deselected_ce (s : State) : (s.deselected).ce = s.ce := rfl
@[simp] theorem State.deselected_seq (s : State) : (s.deselected).seq = s.seq := rfl
@[simp] theorem State.deselected_port (s : State) : (s.deselected).port = s.port := rfl
@[simp] theorem State.deselected_inbox (s : State) : (s.deselected).inbox = s.inbox := rfl
@[simp] theorem State.deselected_resp (s : State) : (s.deselected).resp = s.resp := rfl
@[simp] theorem State.deselected_dev (s : State) : (s.deselected).dev = s.onDevice (Device.deselect s.cfg) := rfl
@[simp] theorem State.deselected_countdown (s : State) : (s.deselected).countdown = s.countdown := rfl
@[simp] theorem State.deselected_tickdiv (s : State) : (s.deselected).tickdiv = s.tickdiv := rfl
@[simp] theorem State.deselected_tickArmed (s : State) : (s.deselected).tickArmed = s.tickArmed := rfl
@[simp] theorem State.deselected_sensor (s : State) : (s.deselected).sensor = s.sensor := rfl
@[simp] theorem State.deselected_air (s : State) : (s.deselected).air = s.air := rfl
@[simp] theorem State.deselected_env (s : State) : (s.deselected).env = s.env := rfl
@[simp] theorem State.deselected_draws (s : State) : (s.deselected).draws = s.draws := rfl
@[simp] theorem State.deselected_trace (s : State) : (s.deselected).trace = s.trace := rfl

/-! `State.raised`: from a high line nothing changes. -/

@[simp] theorem State.raised_cfg (s : State) : s.raised.cfg = s.cfg := by
  unfold State.raised State.raisedFrom; split <;> rfl
@[simp] theorem State.raised_cache (s : State) : s.raised.cache = s.cache := by
  unfold State.raised State.raisedFrom; split <;> rfl
@[simp] theorem State.raised_initialised (s : State) : s.raised.initialised = s.initialised := by
  unfold State.raised State.raisedFrom; split <;> rfl
@[simp] theorem State.raised_csn (s : State) : s.raised.csn = s.csn := by
  unfold State.raised State.raisedFrom; split <;> rfl
@[simp] theorem State.raised_seq (s : State) : s.raised.seq = s.seq := by
  unfold State.raised State.raisedFrom; split <;> rfl
@[simp] theorem State.raised_port (s : State) : s.raised.port = s.port := by
  unfold State.raised State.raisedFrom; split <;> rfl
@[simp] theorem State.raised_inbox (s : State) : s.raised.inbox = s.inbox := by
  unfold State.raised State.raisedFrom; split <;> rfl
@[simp] theorem State.raised_resp (s : State) : s.raised.resp = s.resp := by
  unfold State.raised State.raisedFrom; split <;> rfl
@[simp] theorem State.raised_countdown (s : State) : s.raised.countdown = s.countdown := by
  unfold State.raised State.raisedFrom; split <;> rfl
@[simp] theorem State.raised_tickdiv (s : State) : s.raised.tickdiv = s.tickdiv := by
  unfold State.raised State.raisedFrom; split <;> rfl
@[simp] theorem State.raised_tickArmed (s : State) : s.raised.tickArmed = s.tickArmed := by
  unfold State.raised State.raisedFrom; split <;> rfl
@[simp] theorem State.raised_sensor (s : State) : s.raised.sensor = s.sensor := by
  unfold State.raised State.raisedFrom; split <;> rfl
@[simp] theorem State.raised_air (s : State) : s.raised.air = s.air := by
  unfold State.raised State.raisedFrom; split <;> rfl
@[simp] theorem State.raised_env (s : State) : s.raised.env = s.env := by
  unfold State.raised State.raisedFrom; split <;> rfl
@[simp] theorem State.raised_trace (s : State) : s.raised.trace = s.trace := by
  unfold State.raised State.raisedFrom; split <;> rfl
@[simp] theorem State.raised_ce (s : State) : s.raised.ce = .high := by
  unfold State.raised State.raisedFrom; split <;> simp_all
theorem State.raised_high {s : State} (h : s.ce = .high) : s.raised = s := by
  unfold State.raised State.raisedFrom; rw [h]
theorem State.raised_low {s : State} (h : s.ce = .low) : s.raised =
    { s with ce := .high, dev := s.onDevice (Device.trigger s.cfg s.fresh), draws := s.draws + freshSpan } := by
  unfold State.raised State.raisedFrom; rw [h]

/-! `State.lowered`. -/

@[simp] theorem State.lowered_cfg (s : State) : (s.lowered).cfg = s.cfg := rfl
@[simp] theorem State.lowered_cache (s : State) : (s.lowered).cache = s.cache := rfl
@[simp] theorem State.lowered_initialised (s : State) : (s.lowered).initialised = s.initialised := rfl
@[simp] theorem State.lowered_csn (s : State) : (s.lowered).csn = s.csn := rfl
@[simp] theorem State.lowered_ce (s : State) : (s.lowered).ce = .low := rfl
@[simp] theorem State.lowered_seq (s : State) : (s.lowered).seq = s.seq := rfl
@[simp] theorem State.lowered_port (s : State) : (s.lowered).port = s.port := rfl
@[simp] theorem State.lowered_inbox (s : State) : (s.lowered).inbox = s.inbox := rfl
@[simp] theorem State.lowered_resp (s : State) : (s.lowered).resp = s.resp := rfl
@[simp] theorem State.lowered_dev (s : State) : (s.lowered).dev = s.dev := rfl
@[simp] theorem State.lowered_countdown (s : State) : (s.lowered).countdown = s.countdown := rfl
@[simp] theorem State.lowered_tickdiv (s : State) : (s.lowered).tickdiv = s.tickdiv := rfl
@[simp] theorem State.lowered_tickArmed (s : State) : (s.lowered).tickArmed = s.tickArmed := rfl
@[simp] theorem State.lowered_sensor (s : State) : (s.lowered).sensor = s.sensor := rfl
@[simp] theorem State.lowered_air (s : State) : (s.lowered).air = s.air := rfl
@[simp] theorem State.lowered_env (s : State) : (s.lowered).env = s.env := rfl
@[simp] theorem State.lowered_draws (s : State) : (s.lowered).draws = s.draws := rfl
@[simp] theorem State.lowered_trace (s : State) : (s.lowered).trace = s.trace := rfl

/-! `State.shifting`. -/

@[simp] theorem State.shifting_cfg (out : Byte) (s : State) : (s.shifting out).cfg = s.cfg := rfl
@[simp] theorem State.shifting_cache (out : Byte) (s : State) : (s.shifting out).cache = s.cache := rfl
@[simp] theorem State.shifting_initialised (out : Byte) (s : State) : (s.shifting out).initialised = s.initialised := rfl
@[simp] theorem State.shifting_csn (out : Byte) (s : State) : (s.shifting out).csn = s.csn := rfl
@[simp] theorem State.shifting_ce (out : Byte) (s : State) : (s.shifting out).ce = s.ce := rfl
@[simp] theorem State.shifting_seq (out : Byte) (s : State) : (s.shifting out).seq = s.seq := rfl
@[simp] theorem State.shifting_port (out : Byte) (s : State) : (s.shifting out).port = SerialPort.mk out s.port.shiftIn false s.port.left := rfl
@[simp] theorem State.shifting_inbox (out : Byte) (s : State) : (s.shifting out).inbox = s.inbox := rfl
@[simp] theorem State.shifting_resp (out : Byte) (s : State) : (s.shifting out).resp = s.resp := rfl
@[simp] theorem State.shifting_dev (out : Byte) (s : State) : (s.shifting out).dev = s.dev := rfl
@[simp] theorem State.shifting_countdown (out : Byte) (s : State) : (s.shifting out).countdown = s.countdown := rfl
@[simp] theorem State.shifting_tickdiv (out : Byte) (s : State) : (s.shifting out).tickdiv = s.tickdiv := rfl
@[simp] theorem State.shifting_tickArmed (out : Byte) (s : State) : (s.shifting out).tickArmed = s.tickArmed := rfl
@[simp] theorem State.shifting_sensor (out : Byte) (s : State) : (s.shifting out).sensor = s.sensor := rfl
@[simp] theorem State.shifting_air (out : Byte) (s : State) : (s.shifting out).air = s.air := rfl
@[simp] theorem State.shifting_env (out : Byte) (s : State) : (s.shifting out).env = s.env := rfl
@[simp] theorem State.shifting_draws (out : Byte) (s : State) : (s.shifting out).draws = s.draws := rfl
@[simp] theorem State.shifting_trace (out : Byte) (s : State) : (s.shifting out).trace = s.trace := rfl

/-! `State.exchanged`. -/

@[simp] theorem State.exchanged_cfg (shown : Bool) (out : Byte) (s : State) : (s.exchanged shown out).cfg = s.cfg := rfl
@[simp] theorem State.exchanged_cache (shown : Bool) (out : Byte) (s : State) : (s.exchanged shown out).cache = s.cache := rfl
@[simp] theorem State.exchanged_initialised (shown : Bool) (out : Byte) (s : State) : (s.exchanged shown out).initialised = s.initialised := rfl
@[simp] theorem State.exchanged_csn (shown : Bool) (out : Byte) (s : State) : (s.exchanged shown out).csn = s.csn := rfl
@[simp] theorem State.exchanged_ce (shown : Bool) (out : Byte) (s : State) : (s.exchanged shown out).ce = s.ce := rfl
@[simp] theorem State.exchanged_seq (shown : Bool) (out : Byte) (s : State) : (s.exchanged shown out).seq = advance s.seq := rfl
@[simp] theorem State.exchanged_port (shown : Bool) (out : Byte) (s : State) : (s.exchanged shown out).port = SerialPort.mk out (s.answer out).1 true (s.port.left.map (· - 1)) := rfl
@[simp] theorem State.exchanged_inbox (shown : Bool) (out : Byte) (s : State) : (s.exchanged shown out).inbox = s.inbox := rfl
@[simp] theorem State.exchanged_resp (shown : Bool) (out : Byte) (s : State) : (s.exchanged shown out).resp = s.resp := rfl
@[simp] theorem State.exchanged_dev (shown : Bool) (out : Byte) (s : State) : (s.exchanged shown out).dev = (s.answer out).2 := rfl
@[simp] theorem State.exchanged_countdown (shown : Bool) (out : Byte) (s : State) : (s.exchanged shown out).countdown = s.countdown := rfl
@[simp] theorem State.exchanged_tickdiv (shown : Bool) (out : Byte) (s : State) : (s.exchanged shown out).tickdiv = s.tickdiv := rfl
@[simp] theorem State.exchanged_tickArmed (shown : Bool) (out : Byte) (s : State) : (s.exchanged shown out).tickArmed = s.tickArmed := rfl
@[simp] theorem State.exchanged_sensor (shown : Bool) (out : Byte) (s : State) : (s.exchanged shown out).sensor = s.sensor := rfl
@[simp] theorem State.exchanged_air (shown : Bool) (out : Byte) (s : State) : (s.exchanged shown out).air = s.air := rfl
@[simp] theorem State.exchanged_env (shown : Bool) (out : Byte) (s : State) : (s.exchanged shown out).env = s.env := rfl
@[simp] theorem State.exchanged_draws (shown : Bool) (out : Byte) (s : State) : (s.exchanged shown out).draws = s.draws + 1 := rfl
@[simp] theorem State.exchanged_trace (shown : Bool) (out : Byte) (s : State) : (s.exchanged shown out).trace = .xchg out (if shown then some (s.answer out).1 else none) :: s.trace := rfl

/-! `State.sampled`. -/

@[simp] theorem State.sampled_cfg (s : State) : (s.sampled).cfg = s.cfg := rfl
@[simp] theorem State.sampled_cache (s : State) : (s.sampled).cache = s.cache := rfl
@[simp] theorem State.sampled_initialised (s : State) : (s.sampled).initialised = s.initialised := rfl
@[simp] theorem State.sampled_csn (s : State) : (s.sampled).csn = s.csn := rfl
@[simp] theorem State.sampled_ce (s : State) : (s.sampled).ce = s.ce := rfl
@[simp] theorem State.sampled_seq (s : State) : (s.sampled).seq = s.seq := rfl
@[simp] theorem State.sampled_port (s : State) : (s.sampled).port = s.port := rfl
@[simp] theorem State.sampled_inbox (s : State) : (s.sampled).inbox = s.inbox := rfl
@[simp] theorem State.sampled_resp (s : State) : (s.sampled).resp = s.resp := rfl
@[simp] theorem State.sampled_dev (s : State) : (s.sampled).dev = s.dev := rfl
@[simp] theorem State.sampled_countdown (s : State) : (s.sampled).countdown = s.countdown := rfl
@[simp] theorem State.sampled_tickdiv (s : State) : (s.sampled).tickdiv = s.tickdiv := rfl
@[simp] theorem State.sampled_tickArmed (s : State) : (s.sampled).tickArmed = s.tickArmed := rfl
@[simp] theorem State.sampled_sensor (s : State) : (s.sampled).sensor = s.sensor.tail := rfl
@[simp] theorem State.sampled_air (s : State) : (s.sampled).air = s.air := rfl
@[simp] theorem State.sampled_env (s : State) : (s.sampled).env = s.env := rfl
@[simp] theorem State.sampled_draws (s : State) : (s.sampled).draws = s.draws + 1 := rfl
@[simp] theorem State.sampled_trace (s : State) : (s.sampled).trace = s.trace := rfl

/-! `State.alerted`. -/

@[simp] theorem State.alerted_cfg (p : AlertPattern) (s : State) : (s.alerted p).cfg = s.cfg := rfl
@[simp] theorem State.alerted_cache (p : AlertPattern) (s : State) : (s.alerted p).cache = s.cache := rfl
@[simp] theorem State.alerted_initialised (p : AlertPattern) (s : State) : (s.alerted p).initialised = s.initialised := rfl
@[simp] theorem State.alerted_csn (p : AlertPattern) (s : State) : (s.alerted p).csn = s.csn := rfl
@[simp] theorem State.alerted_ce (p : AlertPattern) (s : State) : (s.alerted p).ce = s.ce := rfl
@[simp] theorem State.alerted_seq (p : AlertPattern) (s : State) : (s.alerted p).seq = s.seq := rfl
@[simp] theorem State.alerted_port (p : AlertPattern) (s : State) : (s.alerted p).port = s.port := rfl
@[simp] theorem State.alerted_inbox (p : AlertPattern) (s : State) : (s.alerted p).inbox = s.inbox := rfl
@[simp] theorem State.alerted_resp (p : AlertPattern) (s : State) : (s.alerted p).resp = s.resp := rfl
@[simp] theorem State.alerted_dev (p : AlertPattern) (s : State) : (s.alerted p).dev = s.dev := rfl
@[simp] theorem State.alerted_countdown (p : AlertPattern) (s : State) : (s.alerted p).countdown = s.countdown := rfl
@[simp] theorem State.alerted_tickdiv (p : AlertPattern) (s : State) : (s.alerted p).tickdiv = s.tickdiv := rfl
@[simp] theorem State.alerted_tickArmed (p : AlertPattern) (s : State) : (s.alerted p).tickArmed = s.tickArmed := rfl
@[simp] theorem State.alerted_sensor (p : AlertPattern) (s : State) : (s.alerted p).sensor = s.sensor := rfl
@[simp] theorem State.alerted_air (p : AlertPattern) (s : State) : (s.alerted p).air = s.air := rfl
@[simp] theorem State.alerted_env (p : AlertPattern) (s : State) : (s.alerted p).env = s.env := rfl
@[simp] theorem State.alerted_draws (p : AlertPattern) (s : State) : (s.alerted p).draws = s.draws := rfl
@[simp] theorem State.alerted_trace (p : AlertPattern) (s : State) : (s.alerted p).trace = .alert p :: s.trace := rfl

/-! `State.boardInitialised`. -/

@[simp] theorem State.boardInitialised_cfg (s : State) : (s.boardInitialised).cfg = s.cfg := rfl
@[simp] theorem State.boardInitialised_cache (s : State) : (s.boardInitialised).cache = s.cache := rfl
@[simp] theorem State.boardInitialised_initialised (s : State) : (s.boardInitialised).initialised = s.initialised := rfl
@[simp] theorem State.boardInitialised_csn (s : State) : (s.boardInitialised).csn = .deasserted := rfl
@[simp] theorem State.boardInitialised_ce (s : State) : (s.boardInitialised).ce = .low := rfl
@[simp] theorem State.boardInitialised_seq (s : State) : (s.boardInitialised).seq = s.seq := rfl
@[simp] theorem State.boardInitialised_port (s : State) : (s.boardInitialised).port = s.port := rfl
@[simp] theorem State.boardInitialised_inbox (s : State) : (s.boardInitialised).inbox = s.inbox := rfl
@[simp] theorem State.boardInitialised_resp (s : State) : (s.boardInitialised).resp = s.resp := rfl
@[simp] theorem State.boardInitialised_dev (s : State) : (s.boardInitialised).dev = s.dev.inFrame .none := rfl
@[simp] theorem State.boardInitialised_countdown (s : State) : (s.boardInitialised).countdown = s.countdown := rfl
@[simp] theorem State.boardInitialised_tickdiv (s : State) : (s.boardInitialised).tickdiv = s.tickdiv := rfl
@[simp] theorem State.boardInitialised_tickArmed (s : State) : (s.boardInitialised).tickArmed = s.tickArmed := rfl
@[simp] theorem State.boardInitialised_sensor (s : State) : (s.boardInitialised).sensor = s.sensor := rfl
@[simp] theorem State.boardInitialised_air (s : State) : (s.boardInitialised).air = s.air := rfl
@[simp] theorem State.boardInitialised_env (s : State) : (s.boardInitialised).env = s.env := rfl
@[simp] theorem State.boardInitialised_draws (s : State) : (s.boardInitialised).draws = s.draws := rfl
@[simp] theorem State.boardInitialised_trace (s : State) : (s.boardInitialised).trace = .boardInit :: s.trace := rfl

/-! `State.armed`. -/

@[simp] theorem State.armed_cfg (s : State) : (s.armed).cfg = s.cfg := rfl
@[simp] theorem State.armed_cache (s : State) : (s.armed).cache = s.cache := rfl
@[simp] theorem State.armed_initialised (s : State) : (s.armed).initialised = s.initialised := rfl
@[simp] theorem State.armed_csn (s : State) : (s.armed).csn = s.csn := rfl
@[simp] theorem State.armed_ce (s : State) : (s.armed).ce = s.ce := rfl
@[simp] theorem State.armed_seq (s : State) : (s.armed).seq = s.seq := rfl
@[simp] theorem State.armed_port (s : State) : (s.armed).port = s.port := rfl
@[simp] theorem State.armed_inbox (s : State) : (s.armed).inbox = s.inbox := rfl
@[simp] theorem State.armed_resp (s : State) : (s.armed).resp = s.resp := rfl
@[simp] theorem State.armed_dev (s : State) : (s.armed).dev = s.dev := rfl
@[simp] theorem State.armed_countdown (s : State) : (s.armed).countdown = s.countdown := rfl
@[simp] theorem State.armed_tickdiv (s : State) : (s.armed).tickdiv = s.tickdiv := rfl
@[simp] theorem State.armed_tickArmed (s : State) : (s.armed).tickArmed = true := rfl
@[simp] theorem State.armed_sensor (s : State) : (s.armed).sensor = s.sensor := rfl
@[simp] theorem State.armed_air (s : State) : (s.armed).air = s.air := rfl
@[simp] theorem State.armed_env (s : State) : (s.armed).env = s.env := rfl
@[simp] theorem State.armed_draws (s : State) : (s.armed).draws = s.draws := rfl
@[simp] theorem State.armed_trace (s : State) : (s.armed).trace = s.trace := rfl

/-! `State.withTickdiv`. -/

@[simp] theorem State.withTickdiv_cfg (n : Nat) (s : State) : (s.withTickdiv n).cfg = s.cfg := rfl
@[simp] theorem State.withTickdiv_cache (n : Nat) (s : State) : (s.withTickdiv n).cache = s.cache := rfl
@[simp] theorem State.withTickdiv_initialised (n : Nat) (s : State) : (s.withTickdiv n).initialised = s.initialised := rfl
@[simp] theorem State.withTickdiv_csn (n : Nat) (s : State) : (s.withTickdiv n).csn = s.csn := rfl
@[simp] theorem State.withTickdiv_ce (n : Nat) (s : State) : (s.withTickdiv n).ce = s.ce := rfl
@[simp] theorem State.withTickdiv_seq (n : Nat) (s : State) : (s.withTickdiv n).seq = s.seq := rfl
@[simp] theorem State.withTickdiv_port (n : Nat) (s : State) : (s.withTickdiv n).port = s.port := rfl
@[simp] theorem State.withTickdiv_inbox (n : Nat) (s : State) : (s.withTickdiv n).inbox = s.inbox := rfl
@[simp] theorem State.withTickdiv_resp (n : Nat) (s : State) : (s.withTickdiv n).resp = s.resp := rfl
@[simp] theorem State.withTickdiv_dev (n : Nat) (s : State) : (s.withTickdiv n).dev = s.dev := rfl
@[simp] theorem State.withTickdiv_countdown (n : Nat) (s : State) : (s.withTickdiv n).countdown = s.countdown := rfl
@[simp] theorem State.withTickdiv_tickdiv (n : Nat) (s : State) : (s.withTickdiv n).tickdiv = n := rfl
@[simp] theorem State.withTickdiv_tickArmed (n : Nat) (s : State) : (s.withTickdiv n).tickArmed = s.tickArmed := rfl
@[simp] theorem State.withTickdiv_sensor (n : Nat) (s : State) : (s.withTickdiv n).sensor = s.sensor := rfl
@[simp] theorem State.withTickdiv_air (n : Nat) (s : State) : (s.withTickdiv n).air = s.air := rfl
@[simp] theorem State.withTickdiv_env (n : Nat) (s : State) : (s.withTickdiv n).env = s.env := rfl
@[simp] theorem State.withTickdiv_draws (n : Nat) (s : State) : (s.withTickdiv n).draws = s.draws := rfl
@[simp] theorem State.withTickdiv_trace (n : Nat) (s : State) : (s.withTickdiv n).trace = s.trace := rfl

/-! `State.withCountdown`. -/

@[simp] theorem State.withCountdown_cfg (n : Nat) (s : State) : (s.withCountdown n).cfg = s.cfg := rfl
@[simp] theorem State.withCountdown_cache (n : Nat) (s : State) : (s.withCountdown n).cache = s.cache := rfl
@[simp] theorem State.withCountdown_initialised (n : Nat) (s : State) : (s.withCountdown n).initialised = s.initialised := rfl
@[simp] theorem State.withCountdown_csn (n : Nat) (s : State) : (s.withCountdown n).csn = s.csn := rfl
@[simp] theorem State.withCountdown_ce (n : Nat) (s : State) : (s.withCountdown n).ce = s.ce := rfl
@[simp] theorem State.withCountdown_seq (n : Nat) (s : State) : (s.withCountdown n).seq = s.seq := rfl
@[simp] theorem State.withCountdown_port (n : Nat) (s : State) : (s.withCountdown n).port = s.port := rfl
@[simp] theorem State.withCountdown_inbox (n : Nat) (s : State) : (s.withCountdown n).inbox = s.inbox := rfl
@[simp] theorem State.withCountdown_resp (n : Nat) (s : State) : (s.withCountdown n).resp = s.resp := rfl
@[simp] theorem State.withCountdown_dev (n : Nat) (s : State) : (s.withCountdown n).dev = s.dev := rfl
@[simp] theorem State.withCountdown_countdown (n : Nat) (s : State) : (s.withCountdown n).countdown = n := rfl
@[simp] theorem State.withCountdown_tickdiv (n : Nat) (s : State) : (s.withCountdown n).tickdiv = s.tickdiv := rfl
@[simp] theorem State.withCountdown_tickArmed (n : Nat) (s : State) : (s.withCountdown n).tickArmed = s.tickArmed := rfl
@[simp] theorem State.withCountdown_sensor (n : Nat) (s : State) : (s.withCountdown n).sensor = s.sensor := rfl
@[simp] theorem State.withCountdown_air (n : Nat) (s : State) : (s.withCountdown n).air = s.air := rfl
@[simp] theorem State.withCountdown_env (n : Nat) (s : State) : (s.withCountdown n).env = s.env := rfl
@[simp] theorem State.withCountdown_draws (n : Nat) (s : State) : (s.withCountdown n).draws = s.draws := rfl
@[simp] theorem State.withCountdown_trace (n : Nat) (s : State) : (s.withCountdown n).trace = s.trace := rfl

/-! `Device.inFrame`. -/

@[simp] theorem Device.inFrame_regs (f : DevFrame) (d : Device) : (d.inFrame f).regs = d.regs := rfl
@[simp] theorem Device.inFrame_txAddrRest (f : DevFrame) (d : Device) : (d.inFrame f).txAddrRest = d.txAddrRest := rfl
@[simp] theorem Device.inFrame_rxAddrP0Rest (f : DevFrame) (d : Device) : (d.inFrame f).rxAddrP0Rest = d.rxAddrP0Rest := rfl
@[simp] theorem Device.inFrame_dataReceived (f : DevFrame) (d : Device) : (d.inFrame f).dataReceived = d.dataReceived := rfl
@[simp] theorem Device.inFrame_dataSent (f : DevFrame) (d : Device) : (d.inFrame f).dataSent = d.dataSent := rfl
@[simp] theorem Device.inFrame_maxRetransmit (f : DevFrame) (d : Device) : (d.inFrame f).maxRetransmit = d.maxRetransmit := rfl
@[simp] theorem Device.inFrame_txFifo (f : DevFrame) (d : Device) : (d.inFrame f).txFifo = d.txFifo := rfl
@[simp] theorem Device.inFrame_rxFifo (f : DevFrame) (d : Device) : (d.inFrame f).rxFifo = d.rxFifo := rfl
@[simp] theorem Device.inFrame_frame (f : DevFrame) (d : Device) : (d.inFrame f).frame = f := rfl
@[simp] theorem Device.inFrame_burst (f : DevFrame) (d : Device) : (d.inFrame f).burst = d.burst := rfl
@[simp] theorem Device.inFrame_fault (f : DevFrame) (d : Device) : (d.inFrame f).fault = d.fault := rfl

/-! `Device.select`. -/

@[simp] theorem Device.select_regs (d : Device) : (d.select).regs = d.regs := rfl
@[simp] theorem Device.select_txAddrRest (d : Device) : (d.select).txAddrRest = d.txAddrRest := rfl
@[simp] theorem Device.select_rxAddrP0Rest (d : Device) : (d.select).rxAddrP0Rest = d.rxAddrP0Rest := rfl
@[simp] theorem Device.select_dataReceived (d : Device) : (d.select).dataReceived = d.dataReceived := rfl
@[simp] theorem Device.select_dataSent (d : Device) : (d.select).dataSent = d.dataSent := rfl
@[simp] theorem Device.select_maxRetransmit (d : Device) : (d.select).maxRetransmit = d.maxRetransmit := rfl
@[simp] theorem Device.select_txFifo (d : Device) : (d.select).txFifo = d.txFifo := rfl
@[simp] theorem Device.select_rxFifo (d : Device) : (d.select).rxFifo = d.rxFifo := rfl
@[simp] theorem Device.select_frame (d : Device) : (d.select).frame = .awaitOpcode := rfl
@[simp] theorem Device.select_burst (d : Device) : (d.select).burst = d.burst := rfl
@[simp] theorem Device.select_fault (d : Device) : (d.select).fault = d.fault := rfl

/-! `Device.clearFlags`. -/

@[simp] theorem Device.clearFlags_regs (c : Cfg) (v : Byte) (d : Device) : (d.clearFlags c v).regs = d.regs := rfl
@[simp] theorem Device.clearFlags_txAddrRest (c : Cfg) (v : Byte) (d : Device) : (d.clearFlags c v).txAddrRest = d.txAddrRest := rfl
@[simp] theorem Device.clearFlags_rxAddrP0Rest (c : Cfg) (v : Byte) (d : Device) : (d.clearFlags c v).rxAddrP0Rest = d.rxAddrP0Rest := rfl
@[simp] theorem Device.clearFlags_dataReceived (c : Cfg) (v : Byte) (d : Device) : (d.clearFlags c v).dataReceived = (d.dataReceived && !v.getLsbD c.bitRxDr) := rfl
@[simp] theorem Device.clearFlags_dataSent (c : Cfg) (v : Byte) (d : Device) : (d.clearFlags c v).dataSent = (d.dataSent && !v.getLsbD c.bitTxDs) := rfl
@[simp] theorem Device.clearFlags_maxRetransmit (c : Cfg) (v : Byte) (d : Device) : (d.clearFlags c v).maxRetransmit = (d.maxRetransmit && !v.getLsbD c.bitMaxRt) := rfl
@[simp] theorem Device.clearFlags_txFifo (c : Cfg) (v : Byte) (d : Device) : (d.clearFlags c v).txFifo = d.txFifo := rfl
@[simp] theorem Device.clearFlags_rxFifo (c : Cfg) (v : Byte) (d : Device) : (d.clearFlags c v).rxFifo = d.rxFifo := rfl
@[simp] theorem Device.clearFlags_frame (c : Cfg) (v : Byte) (d : Device) : (d.clearFlags c v).frame = d.frame := rfl
@[simp] theorem Device.clearFlags_burst (c : Cfg) (v : Byte) (d : Device) : (d.clearFlags c v).burst = d.burst := rfl
@[simp] theorem Device.clearFlags_fault (c : Cfg) (v : Byte) (d : Device) : (d.clearFlags c v).fault = d.fault := rfl

/-! `Device.flushTx`. -/

@[simp] theorem Device.flushTx_regs (d : Device) : (d.flushTx).regs = d.regs := rfl
@[simp] theorem Device.flushTx_txAddrRest (d : Device) : (d.flushTx).txAddrRest = d.txAddrRest := rfl
@[simp] theorem Device.flushTx_rxAddrP0Rest (d : Device) : (d.flushTx).rxAddrP0Rest = d.rxAddrP0Rest := rfl
@[simp] theorem Device.flushTx_dataReceived (d : Device) : (d.flushTx).dataReceived = d.dataReceived := rfl
@[simp] theorem Device.flushTx_dataSent (d : Device) : (d.flushTx).dataSent = d.dataSent := rfl
@[simp] theorem Device.flushTx_maxRetransmit (d : Device) : (d.flushTx).maxRetransmit = d.maxRetransmit := rfl
@[simp] theorem Device.flushTx_txFifo (d : Device) : (d.flushTx).txFifo = [] := rfl
@[simp] theorem Device.flushTx_rxFifo (d : Device) : (d.flushTx).rxFifo = d.rxFifo := rfl
@[simp] theorem Device.flushTx_frame (d : Device) : (d.flushTx).frame = .done := rfl
@[simp] theorem Device.flushTx_burst (d : Device) : (d.flushTx).burst = d.burst.map (fun b => Burst.mk b.frame false) := rfl
@[simp] theorem Device.flushTx_fault (d : Device) : (d.flushTx).fault = d.fault := rfl

/-! `Device.flushRx`. -/

@[simp] theorem Device.flushRx_regs (d : Device) : (d.flushRx).regs = d.regs := rfl
@[simp] theorem Device.flushRx_txAddrRest (d : Device) : (d.flushRx).txAddrRest = d.txAddrRest := rfl
@[simp] theorem Device.flushRx_rxAddrP0Rest (d : Device) : (d.flushRx).rxAddrP0Rest = d.rxAddrP0Rest := rfl
@[simp] theorem Device.flushRx_dataReceived (d : Device) : (d.flushRx).dataReceived = d.dataReceived := rfl
@[simp] theorem Device.flushRx_dataSent (d : Device) : (d.flushRx).dataSent = d.dataSent := rfl
@[simp] theorem Device.flushRx_maxRetransmit (d : Device) : (d.flushRx).maxRetransmit = d.maxRetransmit := rfl
@[simp] theorem Device.flushRx_txFifo (d : Device) : (d.flushRx).txFifo = d.txFifo := rfl
@[simp] theorem Device.flushRx_rxFifo (d : Device) : (d.flushRx).rxFifo = [] := rfl
@[simp] theorem Device.flushRx_frame (d : Device) : (d.flushRx).frame = .done := rfl
@[simp] theorem Device.flushRx_burst (d : Device) : (d.flushRx).burst = d.burst := rfl
@[simp] theorem Device.flushRx_fault (d : Device) : (d.flushRx).fault = d.fault := rfl

/-! `Device.finishBurst`. -/

@[simp] theorem Device.finishBurst_regs (b : Burst) (d : Device) : (d.finishBurst b).regs = d.regs := rfl
@[simp] theorem Device.finishBurst_txAddrRest (b : Burst) (d : Device) : (d.finishBurst b).txAddrRest = d.txAddrRest := rfl
@[simp] theorem Device.finishBurst_rxAddrP0Rest (b : Burst) (d : Device) : (d.finishBurst b).rxAddrP0Rest = d.rxAddrP0Rest := rfl
@[simp] theorem Device.finishBurst_dataReceived (b : Burst) (d : Device) : (d.finishBurst b).dataReceived = d.dataReceived := rfl
@[simp] theorem Device.finishBurst_dataSent (b : Burst) (d : Device) : (d.finishBurst b).dataSent = true := rfl
@[simp] theorem Device.finishBurst_maxRetransmit (b : Burst) (d : Device) : (d.finishBurst b).maxRetransmit = d.maxRetransmit := rfl
@[simp] theorem Device.finishBurst_txFifo (b : Burst) (d : Device) : (d.finishBurst b).txFifo = if b.held then d.txFifo.tail else d.txFifo := rfl
@[simp] theorem Device.finishBurst_rxFifo (b : Burst) (d : Device) : (d.finishBurst b).rxFifo = d.rxFifo := rfl
@[simp] theorem Device.finishBurst_frame (b : Burst) (d : Device) : (d.finishBurst b).frame = d.frame := rfl
@[simp] theorem Device.finishBurst_burst (b : Burst) (d : Device) : (d.finishBurst b).burst = none := rfl
@[simp] theorem Device.finishBurst_fault (b : Burst) (d : Device) : (d.finishBurst b).fault = d.fault := rfl

/-! `Device.unsettle`. -/

@[simp] theorem Device.unsettle_regs (c : Cfg) (a : Byte) (d : Device) : (d.unsettle c a).regs = fileSet d.regs a.toNat .unsettled := rfl
@[simp] theorem Device.unsettle_txAddrRest (c : Cfg) (a : Byte) (d : Device) : (d.unsettle c a).txAddrRest = if a = c.regTxAddr then fileOf 4 .unsettled else d.txAddrRest := rfl
@[simp] theorem Device.unsettle_rxAddrP0Rest (c : Cfg) (a : Byte) (d : Device) : (d.unsettle c a).rxAddrP0Rest = if a = c.regRxAddrP0 then fileOf 4 .unsettled else d.rxAddrP0Rest := rfl
@[simp] theorem Device.unsettle_dataReceived (c : Cfg) (a : Byte) (d : Device) : (d.unsettle c a).dataReceived = d.dataReceived := rfl
@[simp] theorem Device.unsettle_dataSent (c : Cfg) (a : Byte) (d : Device) : (d.unsettle c a).dataSent = d.dataSent := rfl
@[simp] theorem Device.unsettle_maxRetransmit (c : Cfg) (a : Byte) (d : Device) : (d.unsettle c a).maxRetransmit = d.maxRetransmit := rfl
@[simp] theorem Device.unsettle_txFifo (c : Cfg) (a : Byte) (d : Device) : (d.unsettle c a).txFifo = d.txFifo := rfl
@[simp] theorem Device.unsettle_rxFifo (c : Cfg) (a : Byte) (d : Device) : (d.unsettle c a).rxFifo = d.rxFifo := rfl
@[simp] theorem Device.unsettle_frame (c : Cfg) (a : Byte) (d : Device) : (d.unsettle c a).frame = d.frame := rfl
@[simp] theorem Device.unsettle_burst (c : Cfg) (a : Byte) (d : Device) : (d.unsettle c a).burst = d.burst := rfl
@[simp] theorem Device.unsettle_fault (c : Cfg) (a : Byte) (d : Device) : (d.unsettle c a).fault = d.fault := rfl

end Sys2Proof.Machine
end

