-- ==== Sys2Proof/Laws/Files.lean ====
section
/-! SUPPORT. Register files and cells: a read after a write of the same place gives what was written, a write
leaves every other place alone. A file keeps its shape by its type; the machine has no other memory
(20_memory.md R60). -/

namespace Sys2Proof.Machine

theorem fileGet_set {α : Type} {n : Nat} (v : Vector α n) (i j : Nat) (x : α) :
    fileGet (fileSet v i x) j = if i = j then (if j < n then some x else none) else fileGet v j := by
  simp only [fileGet, fileSet, Vector.toList, List.getElem?_set]
  split
  · subst_vars; simp
  · rfl

@[simp] theorem fileGet_set_ne {α : Type} {n : Nat} (v : Vector α n) {i j : Nat} (x : α) (h : i ≠ j) :
    fileGet (fileSet v i x) j = fileGet v j := by simp [fileGet_set, h]

theorem fileGet_set_eq {α : Type} {n : Nat} (v : Vector α n) {i : Nat} (x : α) (h : i < n) :
    fileGet (fileSet v i x) i = some x := by simp [fileGet_set, h]

@[simp] theorem fileGet_of {α : Type} (n : Nat) (x : α) (i : Nat) :
    fileGet (fileOf n x) i = if i < n then some x else none := by
  simp [fileGet, fileOf, List.getElem?_replicate]

@[simp] theorem fileGet_map {α β : Type} {n : Nat} (f : α → β) (v : Vector α n) (i : Nat) :
    fileGet (fileMap f v) i = (fileGet v i).map f := by
  simp [fileGet, fileMap]

theorem fileGet_isSome {α : Type} {n : Nat} (v : Vector α n) {i : Nat} (h : i < n) : ∃ x, fileGet v i = some x := by
  refine ⟨v[i], ?_⟩
  simp [fileGet, h]

theorem fileGet_eq_none {α : Type} {n : Nat} (v : Vector α n) {i : Nat} (h : n ≤ i) : fileGet v i = none := by
  simp [fileGet, h]

/-! The cache. -/

theorem State.cached_setCached (s : State) (a b v : Byte) :
    (s.setCached a v).cached b = if a = b then (if a ≤ Config.regHi then some v else none) else s.cached b := by
  unfold State.cached
  rw [State.setCached_cache, fileGet_set]
  have inj : a.toNat = b.toNat ↔ a = b := ⟨fun e => BitVec.eq_of_toNat_eq e, fun e => by rw [e]⟩
  have bound : b.toNat < 30 ↔ b ≤ Config.regHi := by rw [BitVec.le_def]; show _ ↔ b.toNat ≤ 29; omega
  simp only [inj, bound]
  by_cases h : a = b
  · subst h; by_cases h2 : a ≤ Config.regHi <;> simp only [h2, if_true, if_false] <;> rfl
  · simp only [h, if_false]

/-- A state whose cache is the same shows the same entries. -/
theorem State.cached_congr {s t : State} (h : t.cache = s.cache) (a : Byte) : t.cached a = s.cached a := by
  simp [State.cached, h]

/-! Device cells. -/

/-- The cells of a register are in the two files alone. -/
theorem Device.cell_congr {d e : Device} (h1 : e.regs = d.regs) (h2 : e.txAddrRest = d.txAddrRest)
    (h3 : e.rxAddrP0Rest = d.rxAddrP0Rest) (c : Cfg) (a : Byte) (i : Nat) : e.cell c a i = d.cell c a i := by
  cases i <;> simp [Device.cell, h1, h2, h3]

/-- A cell put in place is read back; every other cell is as it was. -/
theorem Device.cell_setCell (c : Cfg) (d : Device) (a b : Byte) (x : RegCell) (i j : Nat) :
    (d.setCell c a x i).cell c b j =
      if a = b ∧ i = j then (d.cell c a i).map (fun _ => x) else d.cell c b j := by
  have key : ∀ {n : Nat} (v : Vector RegCell n) (k m : Nat), fileGet (fileSet v k x) m =
      if k = m then (fileGet v k).map (fun _ => x) else fileGet v m := by
    intro n v k m
    rw [fileGet_set]
    split
    · subst_vars
      split
      · obtain ⟨y, hy⟩ := fileGet_isSome v ‹_›; simp [hy]
      · rw [fileGet_eq_none v (by omega)]; rfl
    · rfl
  have inj : a.toNat = b.toNat ↔ a = b := ⟨fun e => BitVec.eq_of_toNat_eq e, fun e => by rw [e]⟩
  cases i with
  | zero =>
    cases j with
    | zero => simp only [Device.setCell, Device.cell, key, inj, and_true]
    | succ j => simp [Device.setCell, Device.cell]
  | succ i =>
    cases j with
    | zero => simp only [Device.setCell]; split_ifs <;> simp_all [Device.cell]
    | succ j =>
      simp only [Device.setCell, Device.cell, Nat.add_right_cancel_iff]
      split_ifs <;> simp_all

/-- Unsettling a register unsettles each of its cells and no other. -/
theorem Device.cell_unsettle (c : Cfg) (d : Device) (a b : Byte) (i : Nat) :
    (d.unsettle c a).cell c b i = if a = b then (d.cell c a i).map (fun _ => .unsettled) else d.cell c b i := by
  have inj : a.toNat = b.toNat ↔ a = b := ⟨fun e => BitVec.eq_of_toNat_eq e, fun e => by rw [e]⟩
  have all : ∀ (v : Vector RegCell 4) (k : Nat),
      fileGet (fileOf 4 RegCell.unsettled) k = (fileGet v k).map (fun _ => RegCell.unsettled) := by
    intro v k
    rw [fileGet_of]
    split
    · obtain ⟨x, hx⟩ := fileGet_isSome v ‹_›; simp [hx]
    · rw [fileGet_eq_none v (by omega)]; rfl
  cases i with
  | zero =>
    simp only [Device.cell, Device.unsettle_regs, fileGet_set, inj]
    split
    · subst_vars
      split
      · obtain ⟨x, hx⟩ := fileGet_isSome d.regs ‹_›; simp [hx]
      · rw [fileGet_eq_none d.regs (by omega)]; rfl
    · rfl
  | succ i =>
    simp only [Device.cell, Device.unsettle_txAddrRest, Device.unsettle_rxAddrP0Rest]
    split_ifs <;> first | exact all _ i | (clear all; simp_all)

end Sys2Proof.Machine
end

