-- ==== Sys2Proof/Laws/Gap.lean ====
section
/-! SUPPORT. What the steps of the other agents can do in a gap, once for all: they change the air, the device's
flags, FIFOs and burst, the ports, the schedule and the draws, and nothing else. -/

namespace Sys2Proof.Machine

/-- Everything the other agents leave alone. -/
structure Untouched (s t : State) : Prop where
  cfg : t.cfg = s.cfg
  cache : t.cache = s.cache
  initialised : t.initialised = s.initialised
  csn : t.csn = s.csn
  ce : t.ce = s.ce
  seq : t.seq = s.seq
  port : t.port = s.port
  countdown : t.countdown = s.countdown
  tickdiv : t.tickdiv = s.tickdiv
  tickArmed : t.tickArmed = s.tickArmed
  sensor : t.sensor = s.sensor
  trace : t.trace = s.trace
  regs : t.dev.regs = s.dev.regs
  txAddrRest : t.dev.txAddrRest = s.dev.txAddrRest
  rxAddrP0Rest : t.dev.rxAddrP0Rest = s.dev.rxAddrP0Rest
  maxRetransmit : t.dev.maxRetransmit = s.dev.maxRetransmit
  frame : t.dev.frame = s.dev.frame
  fault : t.dev.fault = s.dev.fault

theorem Untouched.refl (s : State) : Untouched s s := by constructor <;> rfl

theorem Untouched.trans {s t u : State} (h : Untouched s t) (k : Untouched t u) : Untouched s u := by
  constructor
  · exact k.cfg.trans h.cfg
  · exact k.cache.trans h.cache
  · exact k.initialised.trans h.initialised
  · exact k.csn.trans h.csn
  · exact k.ce.trans h.ce
  · exact k.seq.trans h.seq
  · exact k.port.trans h.port
  · exact k.countdown.trans h.countdown
  · exact k.tickdiv.trans h.tickdiv
  · exact k.tickArmed.trans h.tickArmed
  · exact k.sensor.trans h.sensor
  · exact k.trace.trans h.trace
  · exact k.regs.trans h.regs
  · exact k.txAddrRest.trans h.txAddrRest
  · exact k.rxAddrP0Rest.trans h.rxAddrP0Rest
  · exact k.maxRetransmit.trans h.maxRetransmit
  · exact k.frame.trans h.frame
  · exact k.fault.trans h.fault

theorem receive_cases (c : Cfg) (fresh : Nat → Byte) (ce : Ce) (f : AirFrame) (aw : Byte) (d : Device) :
    d.receive c fresh ce f aw = d ∨
      (d.listening c fresh ce = true ∧ d.accepts c fresh f aw = true ∧ d.rxFifo.length < c.rxDepth ∧
        d.receive c fresh ce f aw = { d with rxFifo := d.rxFifo ++ [f.payload], dataReceived := true }) := by
  unfold Device.receive
  split
  · rename_i h
    simp only [Bool.and_eq_true, decide_eq_true_eq] at h
    exact .inr ⟨h.1.1, h.1.2, h.2, rfl⟩
  · exact .inl rfl

theorem transmitComplete_untouched (s : State) : Untouched s (transmitComplete s) := by
  unfold transmitComplete
  split
  · cases s.dev.burst <;> exact ⟨rfl, rfl, rfl, rfl, rfl, rfl, rfl, rfl, rfl, rfl, rfl, rfl, rfl, rfl, rfl, rfl, rfl, rfl⟩
  · exact .refl s

theorem airOffer_untouched (i : Nat) (aw : Byte) (s : State) : Untouched s (airOffer i aw s) := by
  unfold airOffer offerFrame
  split
  · exact .refl s
  · rename_i f _
    by_cases hp : s.cfg.present = true
    · rcases receive_cases s.cfg s.fresh s.ce f aw s.dev with h | ⟨_, _, _, h⟩ <;>
        constructor <;> simp only [hp, if_true, h]
    · constructor <;> simp only [hp, if_false, Bool.false_eq_true]

theorem applyEvent_untouched (e : EnvEvent) (s : State) : Untouched s (applyEvent e s) := by
  cases e with
  | transmitComplete => exact transmitComplete_untouched s
  | airAdd f => simp only [applyEvent]; split <;> constructor <;> rfl
  | airOffer i aw => exact airOffer_untouched i aw s
  | airDrop i => constructor <;> rfl
  | tick => simp only [applyEvent, tick]; split <;> constructor <;> rfl
  | present b =>
    simp only [applyEvent, presentInbound]
    split
    · constructor <;> rfl
    · split <;> constructor <;> rfl

theorem applyEvents_untouched (l : List EnvEvent) (s : State) : Untouched s (applyEvents l s) := by
  induction l generalizing s with
  | nil => exact .refl s
  | cons e l ih => exact (applyEvent_untouched e s).trans (ih _)

theorem gap_untouched (s : State) : Untouched s (gap s) := by
  unfold gap
  generalize s.env = q
  cases q with
  | nil =>
    simp only [gapOf]
    split
    · exact transmitComplete_untouched s
    · exact .refl s
  | cons e l =>
    exact Untouched.trans (t := { s with env := l }) (by constructor <;> rfl) (applyEvents_untouched e _)

@[simp] theorem gap_cfg (s : State) : (gap s).cfg = s.cfg := (gap_untouched s).cfg
@[simp] theorem gap_cache (s : State) : (gap s).cache = s.cache := (gap_untouched s).cache
@[simp] theorem gap_initialised (s : State) : (gap s).initialised = s.initialised := (gap_untouched s).initialised
@[simp] theorem gap_csn (s : State) : (gap s).csn = s.csn := (gap_untouched s).csn
@[simp] theorem gap_ce (s : State) : (gap s).ce = s.ce := (gap_untouched s).ce
@[simp] theorem gap_seq (s : State) : (gap s).seq = s.seq := (gap_untouched s).seq
@[simp] theorem gap_port (s : State) : (gap s).port = s.port := (gap_untouched s).port
@[simp] theorem gap_countdown (s : State) : (gap s).countdown = s.countdown := (gap_untouched s).countdown
@[simp] theorem gap_tickdiv (s : State) : (gap s).tickdiv = s.tickdiv := (gap_untouched s).tickdiv
@[simp] theorem gap_tickArmed (s : State) : (gap s).tickArmed = s.tickArmed := (gap_untouched s).tickArmed
@[simp] theorem gap_sensor (s : State) : (gap s).sensor = s.sensor := (gap_untouched s).sensor
@[simp] theorem gap_trace (s : State) : (gap s).trace = s.trace := (gap_untouched s).trace
@[simp] theorem gap_regs (s : State) : (gap s).dev.regs = s.dev.regs := (gap_untouched s).regs
@[simp] theorem gap_txAddrRest (s : State) : (gap s).dev.txAddrRest = s.dev.txAddrRest := (gap_untouched s).txAddrRest
@[simp] theorem gap_rxAddrP0Rest (s : State) : (gap s).dev.rxAddrP0Rest = s.dev.rxAddrP0Rest :=
  (gap_untouched s).rxAddrP0Rest
@[simp] theorem gap_maxRetransmit (s : State) : (gap s).dev.maxRetransmit = s.dev.maxRetransmit :=
  (gap_untouched s).maxRetransmit
@[simp] theorem gap_frame (s : State) : (gap s).dev.frame = s.dev.frame := (gap_untouched s).frame
@[simp] theorem gap_fault (s : State) : (gap s).dev.fault = s.dev.fault := (gap_untouched s).fault

@[simp] theorem gap_cell (s : State) (c : Cfg) (a : Byte) (i : Nat) : (gap s).dev.cell c a i = s.dev.cell c a i :=
  Device.cell_congr (gap_regs s) (gap_txAddrRest s) (gap_rxAddrP0Rest s) c a i

@[simp] theorem gap_cached (s : State) (a : Byte) : (gap s).cached a = s.cached a := State.cached_congr (gap_cache s) a

/-- A property every single step of another agent keeps, and the schedule does not matter to, every gap keeps. -/
theorem gap_keeps {I : State → Prop} (hs : ∀ s q, I s → I { s with env := q }) (he : ∀ e s, I s → I (applyEvent e s))
    {s : State} (h : I s) : I (gap s) := by
  have all : ∀ l s, I s → I (applyEvents l s) := by
    intro l
    induction l with
    | nil => intro s h; exact h
    | cons e l ih => intro s h; exact ih _ (he e s h)
  unfold gap
  generalize s.env = q
  cases q with
  | nil =>
    simp only [gapOf]
    split
    · exact he .transmitComplete s h
    · exact h
  | cons e l => exact all e _ (hs s l h)

/-- When no other agent steps a gap does nothing. -/
theorem gap_quiet {s : State} (h : Quiet s) : gap s = s := by
  obtain ⟨he, hb⟩ := h
  simp [gap, he, gapOf, transmitComplete, completeBurst, hb]

/-- An absent device takes no step (45_device_interpreter.md R276). -/
theorem gap_absent {s : State} (h : s.cfg.present = false) : (gap s).dev = s.dev ∧ (gap s).cfg.present = false := by
  refine gap_keeps (I := fun t => t.dev = s.dev ∧ t.cfg.present = false) (fun t q h => h) ?_ ⟨rfl, h⟩
  rintro e t ⟨hd, hp⟩
  refine ⟨?_, by rw [(applyEvent_untouched e t).cfg]; exact hp⟩
  cases e with
  | transmitComplete => simp [applyEvent, transmitComplete, hp, hd]
  | airAdd f => simp only [applyEvent]; split <;> exact hd
  | airOffer i aw => simp only [applyEvent, airOffer, offerFrame]; split <;> simp [hp, hd]
  | airDrop i => exact hd
  | tick => simp only [applyEvent, tick]; split <;> exact hd
  | present b => simp only [applyEvent, presentInbound]; split_ifs <;> exact hd

end Sys2Proof.Machine
end

