-- ==== Sys2Proof/Laws/Mapped.lean ====
section
/-! SUPPORT. What a model may rely on of the opcodes, addresses and bit positions of a node (`Cfg.mapped`; 00_scope.md R9,
10_state.md R28 to R37, 30_encoding.md R93), in the form the other laws cite. -/

namespace Sys2Proof.Machine

variable {c : Cfg}

/-! Addresses. -/

theorem mapped_registers (h : c.mapped = true) : c.toRegisters.ok = true := by
  simp only [Cfg.mapped, Bool.and_eq_true] at h; exact h.1.2

theorem mapped_opcodes (h : c.mapped = true) : c.toOpcodes.ok = true := by
  simp only [Cfg.mapped, Bool.and_eq_true] at h; exact h.1.1

theorem mapped_bits (h : c.mapped = true) : c.toBitPositions.ok = true := by
  simp only [Cfg.mapped, Bool.and_eq_true] at h; exact h.2

theorem named_nodup (h : c.mapped = true) : c.named.Nodup := by
  have := mapped_registers h
  simp only [Registers.ok, Bool.and_eq_true, decide_eq_true_eq] at this; exact this.1.1

theorem named_facts (h : c.mapped = true) {a : Byte} (ha : a ∈ c.named) : a ≤ Config.regHi ∧ a ∉ c.readOnlyRegs := by
  have := mapped_registers h
  simp only [Registers.ok, Bool.and_eq_true, List.all_eq_true, decide_eq_true_eq] at this
  exact this.1.2 a ha

theorem named_le (h : c.mapped = true) {a : Byte} (ha : a ∈ c.named) : a ≤ Config.regHi := (named_facts h ha).1

theorem named_writable (h : c.mapped = true) {a : Byte} (ha : a ∈ c.named) : a ∉ c.readOnlyRegs := (named_facts h ha).2

theorem enRxAddr_apart (h : c.mapped = true) : c.regEnRxAddr ∉ c.named := by
  have := mapped_registers h
  simp only [Registers.ok, Bool.and_eq_true, decide_eq_true_eq] at this; exact this.2

/-! Membership in the list of names, for `named_le` and `named_writable`. -/

@[simp] theorem regConfig_named : c.regConfig ∈ c.named := by simp [Registers.named]
@[simp] theorem regEnAa_named : c.regEnAa ∈ c.named := by simp [Registers.named]
@[simp] theorem regSetupAw_named : c.regSetupAw ∈ c.named := by simp [Registers.named]
@[simp] theorem regSetupRetr_named : c.regSetupRetr ∈ c.named := by simp [Registers.named]
@[simp] theorem regRfCh_named : c.regRfCh ∈ c.named := by simp [Registers.named]
@[simp] theorem regRfSetup_named : c.regRfSetup ∈ c.named := by simp [Registers.named]
@[simp] theorem regStatus_named : c.regStatus ∈ c.named := by simp [Registers.named]
@[simp] theorem regRxAddrP0_named : c.regRxAddrP0 ∈ c.named := by simp [Registers.named]
@[simp] theorem regTxAddr_named : c.regTxAddr ∈ c.named := by simp [Registers.named]
@[simp] theorem regRxPwP0_named : c.regRxPwP0 ∈ c.named := by simp [Registers.named]

theorem configured_named {a : Byte} (ha : a ∈ configuredRegisters c) : a ∈ c.named := by
  simp only [configuredRegisters, List.mem_cons, List.not_mem_nil, or_false] at ha
  rcases ha with rfl | rfl | rfl | rfl | rfl | rfl | rfl | rfl <;> simp

/-- The ten addresses are distinct: any two entries of the list differ. -/
theorem named_apart (h : c.mapped = true) {i j : Nat} (hi : i < c.named.length) (hj : j < c.named.length) (hne : i ≠ j) :
    c.named[i] ≠ c.named[j] := fun e => hne ((named_nodup h).getElem_inj_iff.mp e)

theorem config_ne_status (h : c.mapped = true) : c.regConfig ≠ c.regStatus :=
  named_apart h (i := 0) (j := 6) (by decide : 0 < 10) (by decide : 6 < 10) (by decide)
theorem txAddr_ne_status (h : c.mapped = true) : c.regTxAddr ≠ c.regStatus :=
  named_apart h (i := 8) (j := 6) (by decide : 8 < 10) (by decide : 6 < 10) (by decide)
theorem rxAddrP0_ne_status (h : c.mapped = true) : c.regRxAddrP0 ≠ c.regStatus :=
  named_apart h (i := 7) (j := 6) (by decide : 7 < 10) (by decide : 6 < 10) (by decide)
theorem rxAddrP0_ne_txAddr (h : c.mapped = true) : c.regRxAddrP0 ≠ c.regTxAddr :=
  named_apart h (i := 7) (j := 8) (by decide : 7 < 10) (by decide : 8 < 10) (by decide)

/-- The configuration register has one byte. -/
theorem config_one_byte (h : c.mapped = true) : isFiveByte c c.regConfig = false := by
  have h1 : c.regConfig ≠ c.regTxAddr := named_apart h (i := 0) (j := 8) (by decide : 0 < 10) (by decide : 8 < 10) (by decide)
  have h2 : c.regConfig ≠ c.regRxAddrP0 := named_apart h (i := 0) (j := 7) (by decide : 0 < 10) (by decide : 7 < 10) (by decide)
  simp [isFiveByte, h1, h2]

/-- So has the status register. -/
theorem status_one_byte (h : c.mapped = true) : isFiveByte c c.regStatus = false := by
  simp [isFiveByte, Ne.symm (txAddr_ne_status h), Ne.symm (rxAddrP0_ne_status h)]

/-- The baseline read visits every address of the cache. -/
theorem mem_baseline {a : Byte} (h : a ≤ Config.regHi) : a ∈ baselineAddresses := by
  revert a; decide

/-! Opcodes. -/

/-- The fixed opcodes lie above every register opcode. -/
theorem opcode_high {o : Opcodes} (h : o.ok = true) {b : Byte} (hb : b ∈ o.all) : 0x3F#8 < b := by
  simp only [Opcodes.ok, Bool.and_eq_true, List.all_eq_true, decide_eq_true_eq] at h; exact h.2 b hb

theorem opcode_nodup {o : Opcodes} (h : o.ok = true) : o.all.Nodup := by
  simp only [Opcodes.ok, Bool.and_eq_true, decide_eq_true_eq] at h; exact h.1

theorem opcode_apart {o : Opcodes} (h : o.ok = true) {i j : Nat} (hi : i < o.all.length) (hj : j < o.all.length) (hne : i ≠ j) :
    o.all[i] ≠ o.all[j] := fun e => hne ((opcode_nodup h).getElem_inj_iff.mp e)

theorem high_not_register : ∀ b : Byte, 0x3F#8 < b → b >>> Config.addrBits ≠ 0b000 ∧ b >>> Config.addrBits ≠ 0b001 := by
  decide

/-- The opcode map past the register opcodes. -/
theorem decodeOpcode_high (o : Opcodes) {b : Byte} (h : 0x3F#8 < b) : decodeOpcode o b =
    if b = o.opcRRxPayload then some .readRx
    else if b = o.opcWTxPayload then some .writeTx
    else if b = o.opcFlushTx then some .flushTx
    else if b = o.opcFlushRx then some .flushRx
    else if b = o.opcNop then some .nop
    else none := by
  obtain ⟨h1, h2⟩ := high_not_register b h
  simp only [decodeOpcode, h1, h2, false_and, if_false]

theorem decodeOpcode_rxPayload {o : Opcodes} (h : o.ok = true) : decodeOpcode o o.opcRRxPayload = some .readRx := by
  rw [decodeOpcode_high o (opcode_high h (by simp [Opcodes.all])), if_pos rfl]

theorem decodeOpcode_txPayload {o : Opcodes} (h : o.ok = true) : decodeOpcode o o.opcWTxPayload = some .writeTx := by
  have h1 : o.opcWTxPayload ≠ o.opcRRxPayload := opcode_apart h (i := 1) (j := 0) (by decide : 1 < 5) (by decide : 0 < 5) (by decide)
  rw [decodeOpcode_high o (opcode_high h (by simp [Opcodes.all])), if_neg h1, if_pos rfl]

theorem decodeOpcode_flushTx {o : Opcodes} (h : o.ok = true) : decodeOpcode o o.opcFlushTx = some .flushTx := by
  have h1 : o.opcFlushTx ≠ o.opcRRxPayload := opcode_apart h (i := 2) (j := 0) (by decide : 2 < 5) (by decide : 0 < 5) (by decide)
  have h2 : o.opcFlushTx ≠ o.opcWTxPayload := opcode_apart h (i := 2) (j := 1) (by decide : 2 < 5) (by decide : 1 < 5) (by decide)
  rw [decodeOpcode_high o (opcode_high h (by simp [Opcodes.all])), if_neg h1, if_neg h2, if_pos rfl]

theorem flushRx_ne_flushTx {o : Opcodes} (h : o.ok = true) : o.opcFlushRx ≠ o.opcFlushTx :=
  opcode_apart h (i := 3) (j := 2) (by decide : 3 < 5) (by decide : 2 < 5) (by decide)

theorem nop_ne_flushTx {o : Opcodes} (h : o.ok = true) : o.opcNop ≠ o.opcFlushTx :=
  opcode_apart h (i := 4) (j := 2) (by decide : 4 < 5) (by decide : 2 < 5) (by decide)

theorem nop_ne_flushRx {o : Opcodes} (h : o.ok = true) : o.opcNop ≠ o.opcFlushRx :=
  opcode_apart h (i := 4) (j := 3) (by decide : 4 < 5) (by decide : 3 < 5) (by decide)

theorem decodeOpcode_flushRx {o : Opcodes} (h : o.ok = true) : decodeOpcode o o.opcFlushRx = some .flushRx := by
  have h1 : o.opcFlushRx ≠ o.opcRRxPayload := opcode_apart h (i := 3) (j := 0) (by decide : 3 < 5) (by decide : 0 < 5) (by decide)
  have h2 : o.opcFlushRx ≠ o.opcWTxPayload := opcode_apart h (i := 3) (j := 1) (by decide : 3 < 5) (by decide : 1 < 5) (by decide)
  rw [decodeOpcode_high o (opcode_high h (by simp [Opcodes.all])), if_neg h1, if_neg h2, if_neg (flushRx_ne_flushTx h),
    if_pos rfl]

theorem decodeOpcode_nop {o : Opcodes} (h : o.ok = true) : decodeOpcode o o.opcNop = some .nop := by
  have h1 : o.opcNop ≠ o.opcRRxPayload := opcode_apart h (i := 4) (j := 0) (by decide : 4 < 5) (by decide : 0 < 5) (by decide)
  have h2 : o.opcNop ≠ o.opcWTxPayload := opcode_apart h (i := 4) (j := 1) (by decide : 4 < 5) (by decide : 1 < 5) (by decide)
  rw [decodeOpcode_high o (opcode_high h (by simp [Opcodes.all])), if_neg h1, if_neg h2, if_neg (nop_ne_flushTx h),
    if_neg (nop_ne_flushRx h), if_pos rfl]

/-! Bits. -/

/-- The bits of a one shifted into place. -/
theorem oneShift_bit (i : Nat) {j : Nat} (hj : j < 8) : ((1 : Byte) <<< i).getLsbD j = decide (j = i) := by
  by_cases h : j = i
  · subst h; simp [hj]
  · simp only [BitVec.getLsbD_shiftLeft, hj, decide_true, Bool.true_and, h, decide_false]
    by_cases hji : j < i <;> simp [hji]; omega

/-- A one-bit field written is that bit set or cleared. -/
theorem setBit_eq (v : Byte) (i : Nat) (f : Byte) : setBit v i f = withBit v i (f.getLsbD 0) := by
  have hm : fieldMask i i = (1 : Byte) <<< i := by
    simp only [fieldMask, Nat.sub_self, Nat.zero_add]; rfl
  rw [setBit, setField, hm, withBit]
  apply BitVec.eq_of_getLsbD_eq
  intro j hj
  simp only [BitVec.getLsbD_or, BitVec.getLsbD_and, BitVec.getLsbD_not, oneShift_bit i hj]
  by_cases h : j = i
  · subst h
    cases hf : f.getLsbD 0 <;> simp only [BitVec.getLsbD_shiftLeft, hj, oneShift_bit j hj, hf, Nat.sub_self, if_true,
      BitVec.getLsbD_or] <;> simp
  · cases f.getLsbD 0 <;> simp only [if_true, if_false, h, decide_false, Bool.and_false, Bool.or_false, Bool.not_false,
      hj, decide_true, Bool.and_true, Bool.false_eq_true, BitVec.getLsbD_and, BitVec.getLsbD_or, BitVec.getLsbD_not,
      oneShift_bit i hj]

/-- The bits of a byte with one bit set or cleared. -/
theorem withBit_bit (v : Byte) (i j : Nat) (b : Bool) (hj : j < 8) :
    (withBit v i b).getLsbD j = if j = i then b else v.getLsbD j := by
  unfold withBit
  cases b <;> simp only [if_true, Bool.false_eq_true, if_false, BitVec.getLsbD_or, BitVec.getLsbD_and, BitVec.getLsbD_not,
    oneShift_bit i hj, hj, decide_true, Bool.true_and] <;> by_cases h : j = i <;> simp [h]

/-- Setting a bit that the layout names keeps the reserved bits 0. -/
theorem onlyBits_withBit {bits : List Nat} {v : Byte} {i : Nat} (hi : i ∈ bits) (b : Bool) (h : onlyBits bits v = true) :
    onlyBits bits (withBit v i b) = true := by
  simp only [onlyBits, List.all_eq_true, List.mem_range, Bool.or_eq_true, decide_eq_true_eq, Bool.not_eq_true'] at h ⊢
  intro j hj
  rw [withBit_bit v i j b hj]
  by_cases e : j = i
  · exact .inl (e ▸ hi)
  · rw [if_neg e]; exact h j hj

/-- The legal bytes of the configuration register (45_device_interpreter.md R262). -/
theorem legalValue_config (v : Byte) : legalValue c c.regConfig v = onlyBits c.configBits v := by simp [legalValue]

/-! The status byte and the masks of its flags. -/

/-- The named fields of the status byte lie apart, inside the byte (10_state.md R35). -/
theorem status_layout (h : c.mapped = true) :
    c.bitRxDr < 8 ∧ c.bitTxDs < 8 ∧ c.bitMaxRt < 8 ∧ c.bitTxFull < 8 ∧ c.loRxPNo + 2 < 8 ∧
      c.bitRxDr ≠ c.bitTxDs ∧ c.bitRxDr ≠ c.bitMaxRt ∧ c.bitRxDr ≠ c.bitTxFull ∧ c.bitTxDs ≠ c.bitMaxRt ∧
      c.bitTxDs ≠ c.bitTxFull ∧ c.bitMaxRt ≠ c.bitTxFull ∧
      ∀ k < 3, c.loRxPNo + k ≠ c.bitRxDr ∧ c.loRxPNo + k ≠ c.bitTxDs ∧ c.loRxPNo + k ≠ c.bitMaxRt ∧
        c.loRxPNo + k ≠ c.bitTxFull := by
  have hb := mapped_bits h
  simp only [BitPositions.ok, Bool.and_eq_true] at hb
  have hs := hb.1.1.2
  simp only [layoutOk, BitPositions.statusBits, Bool.and_eq_true, decide_eq_true_eq, List.range', List.cons_append,
    List.nil_append, List.nodup_cons, List.mem_cons, List.not_mem_nil, List.all_cons, List.all_nil, not_or] at hs
  refine ⟨by omega, by omega, by omega, by omega, by omega, by omega, by omega, by omega, by omega, by omega, by omega, ?_⟩
  intro k hk
  have : k = 0 ∨ k = 1 ∨ k = 2 := by omega
  rcases this with rfl | rfl | rfl <;> omega

theorem flagBit_bit (f : Bool) (i : Nat) {j : Nat} (hj : j < 8) : (flagBit f i).getLsbD j = (f && decide (j = i)) := by
  cases f
  · simp [flagBit]
  · simp only [flagBit, if_true, oneShift_bit i hj, Bool.true_and]

theorem flagsAll_bit {j : Nat} (hj : j < 8) :
    c.flagsAll.getLsbD j = (decide (j = c.bitRxDr) || decide (j = c.bitTxDs) || decide (j = c.bitMaxRt)) := by
  simp only [Cfg.flagsAll, BitVec.getLsbD_or, oneShift_bit _ hj]

theorem flagTxDs_bit {j : Nat} (hj : j < 8) : c.flagTxDs.getLsbD j = decide (j = c.bitTxDs) := by
  simp only [Cfg.flagTxDs, oneShift_bit _ hj]

theorem pipeNumber_bit (q : List (List Byte)) (lo : Nat) {j : Nat} (hj : j < 8) :
    (pipeNumber q <<< lo).getLsbD j = (decide (lo ≤ j ∧ j < lo + 3) && decide (q = [])) := by
  have h7 : ∀ k, (7 : Byte).getLsbD k = decide (k < 3) := by
    intro k
    by_cases hk : k < 8
    · revert hk; revert k; decide
    · rw [BitVec.getLsbD_of_ge _ _ (by omega), eq_comm, decide_eq_false_iff_not]; omega
  unfold pipeNumber
  by_cases hq : q = []
  · rw [if_pos hq, BitVec.getLsbD_shiftLeft, h7]
    by_cases h1 : j < lo
    · simp [hj, h1, show ¬ lo ≤ j by omega]
    · by_cases h2 : j < lo + 3
      · simp [hj, hq, h1, h2, show lo ≤ j by omega, show j - lo < 3 by omega]
      · simp [hj, h1, h2, show ¬ j - lo < 3 by omega]
  · rw [if_neg hq, BitVec.getLsbD_shiftLeft]; simp [hq]

/-- The status byte, bit by bit (45_device_interpreter.md R261). -/
theorem statusByte_bit (d : Device) {j : Nat} (hj : j < 8) : (d.statusByte c).getLsbD j =
    (d.dataReceived && decide (j = c.bitRxDr) || d.dataSent && decide (j = c.bitTxDs) ||
      d.maxRetransmit && decide (j = c.bitMaxRt) ||
      (decide (c.loRxPNo ≤ j ∧ j < c.loRxPNo + 3) && decide (d.rxFifo = [])) ||
      decide (d.txFifo.length = c.txDepth) && decide (j = c.bitTxFull)) := by
  simp only [Device.statusByte, BitVec.getLsbD_or, flagBit_bit _ _ hj, pipeNumber_bit _ _ hj]

/-- What the engine tests of it: "data sent" and "data received". -/
theorem statusByte_dataSent (h : c.mapped = true) (d : Device) : (d.statusByte c).getLsbD c.bitTxDs = d.dataSent := by
  obtain ⟨_, h2, _, _, _, h6, _, _, h9, h10, _, hp⟩ := status_layout h
  have hn : ¬ (c.loRxPNo ≤ c.bitTxDs ∧ c.bitTxDs < c.loRxPNo + 3) := fun e =>
    (hp (c.bitTxDs - c.loRxPNo) (by omega)).2.1 (by omega)
  rw [statusByte_bit d h2]
  simp [Ne.symm h6, h9, h10, hn]

theorem statusByte_dataReceived (h : c.mapped = true) (d : Device) : (d.statusByte c).getLsbD c.bitRxDr = d.dataReceived := by
  obtain ⟨h1, _, _, _, _, h6, h7, h8, _, _, _, hp⟩ := status_layout h
  have hn : ¬ (c.loRxPNo ≤ c.bitRxDr ∧ c.bitRxDr < c.loRxPNo + 3) := fun e =>
    (hp (c.bitRxDr - c.loRxPNo) (by omega)).1 (by omega)
  rw [statusByte_bit d h1]
  simp [h6, h7, h8, hn]

/-- Cutting a mask to the three flags does not change which flags it clears (42_packet_io.md R186). -/
theorem clearFlags_masked (h : c.mapped = true) (m : Byte) (d : Device) : d.clearFlags c (m &&& c.flagsAll) = d.clearFlags c m := by
  obtain ⟨h1, h2, h3, _⟩ := status_layout h
  simp only [Device.clearFlags, BitVec.getLsbD_and, flagsAll_bit h1, flagsAll_bit h2, flagsAll_bit h3]
  simp

/-- All three flags cleared. -/
theorem clearFlags_all (h : c.mapped = true) (d : Device) :
    d.clearFlags c c.flagsAll = { d with dataReceived := false, dataSent := false, maxRetransmit := false } := by
  obtain ⟨h1, h2, h3, _⟩ := status_layout h
  simp only [Device.clearFlags, flagsAll_bit h1, flagsAll_bit h2, flagsAll_bit h3]
  simp

/-- "Data sent" alone cleared. -/
theorem clearFlags_txDs (h : c.mapped = true) (d : Device) : d.clearFlags c c.flagTxDs = { d with dataSent := false } := by
  obtain ⟨h1, h2, h3, _, _, h6, _, _, h9, _⟩ := status_layout h
  simp only [Device.clearFlags, flagTxDs_bit h1, flagTxDs_bit h2, flagTxDs_bit h3]
  simp [h6, Ne.symm h9]

end Sys2Proof.Machine
end

