-- ==== Sys2Proof/Laws/Engine.lean ====
section
/-! SUPPORT. How to reason about a computation of the engine: what each atomic action does, one rule for each way
computations are put together, and, for every operation, the lemma that carries a property of its parts to the
whole, so that nothing later unfolds a body. -/

namespace Sys2Proof.Machine

/-! Runs. -/

@[simp] theorem internal_run (f : State → State) (s : State) : (internal f).run s = .ok () (f s).advanced := rfl

@[simp] theorem noteLocals_run (f : Locals → Locals) (s : State) :
    (noteLocals f).run s = .ok () (s.withTop fun p => { p with loc := f p.loc }) := rfl

@[simp] theorem locals_run (s : State) : locals.run s = .ok (topLocals s.seq) s := rfl

@[simp] theorem csnAssert_run (s : State) : csnAssert.run s = .ok () ((gap s).selected.stamped .csnAssert) := rfl

@[simp] theorem csnDeassert_run (s : State) : csnDeassert.run s = .ok () ((gap s).deselected.stamped .csnDeassert) := rfl

@[simp] theorem ceHigh_run (s : State) : ceHigh.run s = .ok () ((gap s).raised.stamped .ceHigh) := rfl

@[simp] theorem ceLow_run (s : State) : ceLow.run s = .ok () ((gap s).lowered.stamped .ceLow) := rfl

@[simp] theorem waitUs_run (us : Nat) (s : State) : (waitUs us).run s = .ok () ((gap s).stamped (.wait us)) := rfl

theorem xchg_run_eq (shown : Bool) (out : Byte) (s : State) :
    (xchg shown out).run s = if s.port.left = some 0 then .error .shift ((gap s).shifting out)
      else .ok ((gap s).answer out).1 ((gap s).exchanged shown out) := by
  rw [← gap_port s]; rfl

/-- An exchange completes when exchanges complete (45_device_interpreter.md R275). -/
theorem xchg_run (shown : Bool) (out : Byte) {s : State} (h : s.port.left = none) :
    (xchg shown out).run s = .ok ((gap s).answer out).1 ((gap s).exchanged shown out) := by
  rw [xchg_run_eq, h]; rfl

theorem call_run {α : Type} (t : Task) (m : Eng α) (s : State) : (call t m).run s = leave (m.run (s.entering t)) := rfl

theorem guarded_run (why : State → Option RefuseReason) (m : Eng Reply) (s : State) :
    (guarded why m).run s = (refusedOr m (why s)).run s := rfl

@[simp] theorem waitAt_run {α : Type} (k : Nat) (s : State) :
    (waitAt k : Eng α).run s = .error .poll (s.atAction k) := rfl

@[simp] theorem skipTo_run (k : Nat) (s : State) : (skipTo k).run s = .ok () (s.atAction k) := rfl

@[simp] theorem sampleSensor_run (s : State) : sampleSensor.run s =
    .ok s.nextReading (s.sampled.advanced.withTop fun p => { p with loc := { p.loc with reading := s.nextReading } }) := rfl

/-! The rules. -/

/-- From every state that meets `P`, a computation that returns meets `Q`, one that waits meets `E`. -/
def Spec {α : Type} (P : State → Prop) (m : Eng α) (Q : α → State → Prop) (E : Wait → State → Prop) : Prop :=
  ∀ s, P s → match m.run s with
    | .ok a t => Q a t
    | .error w t => E w t

theorem Spec.pure {α : Type} {P : State → Prop} {Q : α → State → Prop} {E : Wait → State → Prop} {a : α}
    (h : ∀ s, P s → Q a s) : Spec P (Pure.pure a : Eng α) Q E := h

theorem Spec.bind {α β : Type} {P : State → Prop} {R : α → State → Prop} {Q : β → State → Prop}
    {E : Wait → State → Prop} {m : Eng α} {k : α → Eng β} (hm : Spec P m R E) (hk : ∀ a, Spec (R a) (k a) Q E) :
    Spec P (m >>= k) Q E := by
  intro s hs
  have h := hm s hs
  rw [EStateM.run_bind]
  revert h
  cases m.run s with
  | ok a t => exact fun h => hk a t h
  | error w t => exact fun h => h

theorem Spec.mono {α : Type} {P P' : State → Prop} {Q Q' : α → State → Prop} {E E' : Wait → State → Prop} {m : Eng α}
    (h : Spec P m Q E) (hP : ∀ s, P' s → P s) (hQ : ∀ a s, Q a s → Q' a s) (hE : ∀ w s, E w s → E' w s) :
    Spec P' m Q' E' := by
  intro s hs
  have := h s (hP s hs)
  revert this
  cases m.run s with
  | ok a t => exact hQ a t
  | error w t => exact hE w t

theorem Spec.call {α : Type} {P P' : State → Prop} {Q Q' : α → State → Prop} {E : Wait → State → Prop} {t : Task}
    {m : Eng α} (h : Spec P' m Q' E) (hin : ∀ s, P s → P' (s.entering t)) (hout : ∀ a s, Q' a s → Q a s.leaving) :
    Spec P (call t m) Q E := by
  intro s hs
  have := h _ (hin s hs)
  rw [call_run]
  revert this
  cases m.run (s.entering t) with
  | ok a t => exact hout a t
  | error w t => exact fun h => h

theorem Spec.ofRun {α : Type} {P : State → Prop} {Q : α → State → Prop} {E : Wait → State → Prop} {m : Eng α}
    (v : State → α) (f : State → State) (hr : ∀ s, m.run s = .ok (v s) (f s)) (h : ∀ s, P s → Q (v s) (f s)) :
    Spec P m Q E := by
  intro s hs; rw [hr]; exact h s hs

theorem Spec.get {P : State → Prop} {Q : State → State → Prop} {E : Wait → State → Prop} (h : ∀ s, P s → Q s s) :
    Spec P (MonadState.get : Eng State) Q E := h

theorem Spec.xchg {P : State → Prop} {Q : Byte → State → Prop} {E : Wait → State → Prop} {shown : Bool} {out : Byte}
    (ok : ∀ s, P s → Q ((gap s).answer out).1 ((gap s).exchanged shown out))
    (stuck : ∀ s, P s → s.port.left = some 0 → E .shift ((gap s).shifting out)) : Spec P (xchg shown out) Q E := by
  intro s hs
  rw [xchg_run_eq]
  split
  · rename_i heq; split at heq
    · cases heq
    · cases heq; exact ok s hs
  · rename_i heq; split at heq
    · cases heq; exact stuck s hs ‹_›
    · cases heq

theorem Spec.guarded {P : State → Prop} {Q : Reply → State → Prop} {E : Wait → State → Prop}
    {why : State → Option RefuseReason} {m : Eng Reply} (h : Spec P m Q E)
    (hr : ∀ r s, P s → why s = some r → Q (Reply.refusedFor r) s) : Spec P (guarded why m) Q E := by
  intro s hs
  rw [guarded_run]
  cases hw : why s with
  | none => exact h s hs
  | some r => exact hr r s hs hw

/-! A property kept. -/

/-- The computation keeps `D`; where it waits, `E` holds. -/
abbrev Keep {α : Type} (D : State → Prop) (E : Wait → State → Prop) (m : Eng α) : Prop := Spec D m (fun _ => D) E

theorem Keep.pure {α : Type} {D : State → Prop} {E : Wait → State → Prop} (a : α) : Keep D E (Pure.pure a : Eng α) :=
  fun _ h => h

theorem Keep.bind {α β : Type} {D : State → Prop} {E : Wait → State → Prop} {m : Eng α} {k : α → Eng β}
    (hm : Keep D E m) (hk : ∀ a, Keep D E (k a)) : Keep D E (m >>= k) := Spec.bind hm hk

theorem Keep.get {D : State → Prop} {E : Wait → State → Prop} : Keep D E (MonadState.get : Eng State) := fun _ h => h

theorem Keep.ite {α : Type} {D : State → Prop} {E : Wait → State → Prop} {c : Prop} [Decidable c] {m n : Eng α}
    (hm : c → Keep D E m) (hn : ¬ c → Keep D E n) : Keep D E (if c then m else n) := by
  split
  · exact hm ‹_›
  · exact hn ‹_›

theorem Keep.guarded {D : State → Prop} {E : Wait → State → Prop} {why : State → Option RefuseReason} {m : Eng Reply}
    (h : Keep D E m) : Keep D E (guarded why m) := Spec.guarded h fun _ _ hs _ => hs

/-- The property does not look at the sequencer. -/
def Blind (D : State → Prop) : Prop := ∀ s q, D s → D { s with seq := q }

theorem Keep.call {α : Type} {D : State → Prop} {E : Wait → State → Prop} (hb : Blind D) {t : Task} {m : Eng α}
    (h : Keep D E m) : Keep D E (call t m) := Spec.call h (fun s hs => hb s _ hs) (fun _ s hs => hb s _ hs)

theorem Keep.noteLocals {D : State → Prop} {E : Wait → State → Prop} (hb : Blind D) (f : Locals → Locals) :
    Keep D E (noteLocals f) := fun s hs => hb s _ hs

theorem Keep.locals {D : State → Prop} {E : Wait → State → Prop} : Keep D E locals := fun _ hs => hs

theorem Keep.internal {D : State → Prop} {E : Wait → State → Prop} (hb : Blind D) {f : State → State}
    (h : ∀ s, D s → D (f s)) : Keep D E (internal f) := fun s hs => hb (f s) _ (h s hs)

/-! One frame. A property of the device's view of a frame, at each place of the frame: before it (`D`), opened
(`A`), with `k` data bytes sent (`B k`), and where an exchange never completes (`E`). -/

/-- The property goes through a frame with opcode `op` and at most `limit` data bytes. -/
structure Protocol (op : Byte) (limit : Nat) (D A : State → Prop) (B : Nat → State → Prop) (E : Wait → State → Prop) :
    Prop where
  opened : ∀ s, D s → A ((gap s).selected.stamped .csnAssert)
  opcode : ∀ s shown, A s → B 0 ((gap s).exchanged shown op)
  opcodeStuck : ∀ s, A s → s.port.left = some 0 → E .shift ((gap s).shifting op)
  data : ∀ s shown out k, k < limit → B k s → B (k + 1) ((gap s).exchanged shown out)
  dataStuck : ∀ s out k, k < limit → B k s → s.port.left = some 0 → E .shift ((gap s).shifting out)
  noted : ∀ s f k, B k s → B k (s.withTop f)
  closed : ∀ s k, k ≤ limit → B k s → D ((gap s).deselected.stamped .csnDeassert)

section

variable {op : Byte} {limit : Nat} {D A : State → Prop} {B : Nat → State → Prop} {E : Wait → State → Prop}

theorem Protocol.assert (p : Protocol op limit D A B E) : Spec D csnAssert (fun _ => A) E := fun s h => p.opened s h

theorem Protocol.first (p : Protocol op limit D A B E) (shown : Bool) : Spec A (xchg shown op) (fun _ => B 0) E :=
  Spec.xchg (fun s h => p.opcode s shown h) p.opcodeStuck

theorem Protocol.next (p : Protocol op limit D A B E) (shown : Bool) (out : Byte) {k : Nat} (h : k < limit) :
    Spec (B k) (xchg shown out) (fun _ => B (k + 1)) E :=
  Spec.xchg (fun s hs => p.data s shown out k h hs) (fun s hs => p.dataStuck s out k h hs)

theorem Protocol.kept (p : Protocol op limit D A B E) (shown : Bool) (out : Byte) {k : Nat} (h : k < limit) :
    Spec (B k) (xchgKept shown out) (fun _ => B (k + 1)) E :=
  Spec.bind (p.next shown out h) fun _ => Spec.bind (R := fun _ => B (k + 1)) (fun s hs => p.noted s _ _ hs) fun _ =>
    Spec.pure fun _ h => h

theorem Protocol.deassert (p : Protocol op limit D A B E) {k : Nat} (h : k ≤ limit) :
    Spec (B k) csnDeassert (fun _ => D) E := fun s hs => p.closed s k h hs

theorem Protocol.sendAll (p : Protocol op limit D A B E) (l : List Byte) (k : Nat) (h : k + l.length ≤ limit) :
    Spec (B k) (sendAll l) (fun _ => B (k + l.length)) E := by
  induction l generalizing k with
  | nil => exact Spec.pure fun _ h => h
  | cons b l ih =>
    simp only [List.length_cons] at h ⊢
    refine Spec.bind (p.kept false b (by omega)) fun _ => ?_
    rw [show k + (l.length + 1) = k + 1 + l.length by omega]; exact ih (k + 1) (by omega)

theorem Protocol.receiveAll (p : Protocol op limit D A B E) (n k : Nat) (h : k + n ≤ limit) :
    Spec (B k) (receiveAll n) (fun _ => B (k + n)) E := by
  induction n generalizing k with
  | zero => exact Spec.pure fun _ h => h
  | succ n ih =>
    refine Spec.bind (p.kept true _ (by omega)) fun _ => ?_
    rw [show k + (n + 1) = k + 1 + n by omega]
    exact Spec.bind (ih (k + 1) (by omega)) fun _ => Spec.pure fun _ h => h

theorem Protocol.exchangeAll (p : Protocol op limit D A B E) (l : List Byte) (k : Nat) (h : k + l.length ≤ limit) :
    Spec (B k) (exchangeAll l) (fun _ => B (k + l.length)) E := by
  induction l generalizing k with
  | nil => exact Spec.pure fun _ h => h
  | cons b l ih =>
    simp only [List.length_cons] at h ⊢
    refine Spec.bind (p.kept true b (by omega)) fun _ => ?_
    rw [show k + (l.length + 1) = k + 1 + l.length by omega]
    exact Spec.bind (ih (k + 1) (by omega)) fun _ => Spec.pure fun _ h => h

/-! The frames of the engine. -/

theorem readRegisterBody_keeps {a : Byte} (p : Protocol (readOpcode a) limit D A B E) (h : 1 ≤ limit) :
    Keep D E (readRegisterBody a) :=
  Spec.bind p.assert fun _ => Spec.bind (p.first true) fun _ => Spec.bind (p.next true _ h) fun _ =>
    Spec.bind (p.deassert h) fun _ => Spec.pure fun _ h => h

theorem writeRegisterBody_keeps {a : Byte} (d : Byte) (p : Protocol (writeOpcode a) limit D A B E) (h : 1 ≤ limit) :
    Keep D E (writeRegisterBody a d) :=
  Spec.bind p.assert fun _ => Spec.bind (p.first false) fun _ => Spec.bind (p.next false _ h) fun _ => p.deassert h

theorem writeCommandBody_keeps {c : Byte} (p : Protocol c limit D A B E) : Keep D E (writeCommandBody c) :=
  Spec.bind p.assert fun _ => Spec.bind (p.first true) fun _ => Spec.bind (p.deassert (Nat.zero_le _)) fun _ =>
    Spec.pure fun _ h => h

theorem writeRegisterBurstBody_keeps {a : Byte} {bytes : List Byte} (p : Protocol (writeOpcode a) limit D A B E)
    (h : bytes.length ≤ limit) : Keep D E (writeRegisterBurstBody a bytes) :=
  Spec.bind p.assert fun _ => Spec.bind (p.first false) fun _ => Spec.bind (p.sendAll bytes 0 (by omega)) fun _ =>
    p.deassert (by omega)

theorem payload_length_le (n : Byte) (buf : List Byte) : (payload n buf).length ≤ n.toNat := by
  simp [payload]

theorem writeFifoBody_keeps {c : Cfg} {n : Byte} (buf : List Byte) (p : Protocol c.opcWTxPayload limit D A B E)
    (h : n.toNat ≤ limit) : Keep D E (writeFifoBody c n buf) := by
  have hl := payload_length_le n buf
  unfold writeFifoBody
  exact Keep.ite (fun _ => Keep.pure _) fun _ => Spec.bind p.assert fun _ => Spec.bind (p.first false) fun _ =>
    Spec.bind (p.sendAll (payload n buf) 0 (by omega)) fun _ => p.deassert (by omega)

theorem readFifoBody_keeps {c : Cfg} {n : Byte} (p : Protocol c.opcRRxPayload limit D A B E) (h : n.toNat ≤ limit) :
    Keep D E (readFifoBody c n) := by
  unfold readFifoBody
  exact Keep.ite (fun _ => Keep.pure _) fun _ => Spec.bind p.assert fun _ => Spec.bind (p.first true) fun _ =>
    Spec.bind (p.receiveAll n.toNat 0 (by omega)) fun _ => Spec.bind (p.deassert (by omega)) fun _ =>
      Spec.pure fun _ h => h

theorem frameBody_keeps {bytes : List Byte} (p : Protocol op limit D A B E) (h : bytes.length ≤ limit) :
    Keep D E (frameBody (op :: bytes)) := by
  refine Spec.bind p.assert fun _ => Spec.bind (R := fun _ => B bytes.length) ?_ fun _ =>
    Spec.bind (p.deassert h) fun _ => Spec.pure fun _ h => h
  refine Spec.bind (Spec.bind (p.first true) fun _ => Spec.bind (R := fun _ => B 0) (fun s hs => p.noted s _ _ hs) fun _ =>
    Spec.pure (Q := fun _ => B 0) fun _ h => h) fun _ => ?_
  have := p.exchangeAll bytes 0 (by omega)
  rw [Nat.zero_add] at this
  exact Spec.bind this fun _ => Spec.pure fun _ h => h

end

/-! The composite operations: what their parts keep they keep. -/

section

variable {c : Cfg} {D : State → Prop} {E : Wait → State → Prop}

theorem readRegister_keeps {a : Byte} (hb : Blind D) (h : Keep D E (readRegisterBody a)) : Keep D E (readRegister a) :=
  Keep.call hb h

theorem writeRegister_keeps {a d : Byte} (hb : Blind D) (h : Keep D E (writeRegisterBody a d)) :
    Keep D E (writeRegister a d) := Keep.call hb h

theorem writeCommand_keeps {b : Byte} (hb : Blind D) (h : Keep D E (writeCommandBody b)) : Keep D E (writeCommand b) :=
  Keep.call hb h

theorem writeValidatedBody_keeps {a d : Byte} (hb : Blind D) (hw : Keep D E (writeRegisterBody a d))
    (hr : Keep D E (readRegisterBody a)) (hc : ∀ s, D s → D (s.setCached a d)) :
    Keep D E (writeValidatedBody a d) :=
  Keep.bind (writeRegister_keeps hb hw) fun _ => Keep.bind (readRegister_keeps hb hr) fun _ =>
    Keep.ite (fun _ => Keep.bind (Keep.internal hb hc) fun _ => Keep.pure _) fun _ => Keep.pure _

theorem writeValidated_keeps {a d : Byte} (hb : Blind D) (hw : Keep D E (writeRegisterBody a d))
    (hr : Keep D E (readRegisterBody a)) (hc : ∀ s, D s → D (s.setCached a d)) : Keep D E (writeValidated a d) :=
  Keep.call hb (writeValidatedBody_keeps hb hw hr hc)

theorem readBaseline_keeps (hb : Blind D) (l : List Byte) (hr : ∀ a ∈ l, Keep D E (readRegisterBody a))
    (hc : ∀ a ∈ l, ∀ s, D s → D (s.cachedShifted a)) : Keep D E (readBaseline l) := by
  induction l with
  | nil => exact Keep.pure _
  | cons a l ih =>
    exact Keep.bind (readRegister_keeps hb (hr a (by simp))) fun _ =>
      Keep.bind (Keep.internal hb (hc a (by simp))) fun _ =>
        ih (fun b h => hr b (by simp [h])) fun b h => hc b (by simp [h])

theorem configure_keeps {k : Nat} {a d : Byte} (hb : Blind D) (h : Keep D E (writeValidated a d)) :
    Keep D E (configure k a d) := Keep.bind h fun _ => Keep.noteLocals hb _

theorem initBody_keeps (hm : c.mapped = true) (hb : Blind D) (hr : ∀ a ∈ baselineAddresses, Keep D E (readRegisterBody a))
    (hs : ∀ a ∈ baselineAddresses, ∀ s, D s → D (s.cachedShifted a))
    (hw : ∀ a ∈ configuredRegisters c, ∀ d, Keep D E (writeRegisterBody a d))
    (hc : ∀ a ∈ configuredRegisters c, ∀ d s, D s → D (s.setCached a d))
    (ht : ∀ bytes, bytes.length = 5 → Keep D E (writeRegisterBurstBody c.regTxAddr bytes))
    (hi : ∀ s, D s → D s.nowInitialised) (hwait : ∀ us, Keep D E (waitUs us)) : Keep D E (initBody c) := by
  have v : ∀ a ∈ configuredRegisters c, ∀ k d, Keep D E (configure k a d) := fun a h k d =>
    configure_keeps hb (writeValidated_keeps hb (hw a h d) (hr a (mem_baseline (named_le hm (configured_named h)))) (hc a h d))
  refine Keep.bind (readBaseline_keeps hb _ hr hs) fun _ => ?_
  refine Keep.bind (v _ (by simp [configuredRegisters]) _ _) fun _ => ?_
  refine Keep.bind (hwait _) fun _ => ?_
  refine Keep.bind (v _ (by simp [configuredRegisters]) _ _) fun _ => ?_
  refine Keep.bind (v _ (by simp [configuredRegisters]) _ _) fun _ => ?_
  refine Keep.bind (v _ (by simp [configuredRegisters]) _ _) fun _ => ?_
  refine Keep.bind (v _ (by simp [configuredRegisters]) _ _) fun _ => ?_
  refine Keep.bind (v _ (by simp [configuredRegisters]) _ _) fun _ => ?_
  refine Keep.bind (Keep.call hb (ht _ (by simp))) fun _ => ?_
  refine Keep.bind (v _ (by simp [configuredRegisters]) _ _) fun _ => ?_
  refine Keep.bind (Keep.internal hb hi) fun _ => ?_
  exact Keep.bind Keep.locals fun _ => Keep.pure _

theorem clearFlagsBody_keeps {m : Byte} (hb : Blind D) (hw : ∀ d, Keep D E (writeRegisterBody c.regStatus d)) :
    Keep D E (clearFlagsBody c m) := writeRegister_keeps hb (hw _)

theorem setModeBitBody_keeps {m : Byte} (hb : Blind D) (hw : ∀ d, Keep D E (writeRegisterBody c.regConfig d))
    (hr : Keep D E (readRegisterBody c.regConfig)) (hc : ∀ d s, D s → D (s.setCached c.regConfig d)) :
    Keep D E (setModeBitBody c m) :=
  Keep.bind Keep.get fun _ => writeValidated_keeps hb (hw _) hr (hc _)

theorem startListeningBody_keeps (hb : Blind D) (hf : Keep D E (clearFlagsBody c c.flagsAll))
    (hm : Keep D E (setModeBitBody c ModeBit.receive.bit)) (hce : Keep D E ceHigh) : Keep D E (startListeningBody c) :=
  Keep.bind (Keep.call hb hf) fun _ => Keep.bind (Keep.call hb hm) fun _ =>
    Keep.ite (fun _ => Keep.pure _) fun _ => Keep.bind hce fun _ => Keep.pure _

theorem stopListeningBody_keeps (hb : Blind D) (hce : Keep D E ceLow)
    (hx : Keep D E (writeCommandBody c.opcFlushRx)) : Keep D E (stopListeningBody c) :=
  Keep.bind hce fun _ => Keep.call hb (writeCommand_keeps hb hx)

theorem startBody_keeps {n : Byte} {buf : List Byte} (hb : Blind D) (hf : Keep D E (clearFlagsBody c c.flagsAll))
    (hm : Keep D E (setModeBitBody c ModeBit.transmit.bit)) (hx : Keep D E (writeCommandBody c.opcFlushTx))
    (hl : Keep D E (writeFifoBody c n buf)) : Keep D E (startBody c n buf) :=
  Keep.bind (Keep.call hb hf) fun _ => Keep.bind (Keep.call hb hm) fun _ =>
    Keep.ite (fun _ => Keep.pure _) fun _ =>
      Keep.bind (Keep.call hb (writeCommand_keeps hb hx)) fun _ => Keep.bind (Keep.call hb hl) fun _ => Keep.pure _

theorem initiateBody_keeps (hh : Keep D E ceHigh) (hw : Keep D E (waitUs Config.cePulseMinUs)) (hl : Keep D E ceLow) :
    Keep D E initiateBody := Keep.bind hh fun _ => Keep.bind hw fun _ => hl

theorem endBody_keeps (hb : Blind D) (hx : Keep D E (writeCommandBody c.opcNop))
    (hf : Keep D E (clearFlagsBody c c.flagTxDs)) (hp : ∀ s, D s → E .poll s) (hbE : Blind (E .poll)) :
    Keep D E (endBody c) :=
  Keep.bind (writeCommand_keeps hb hx) fun _ => Keep.bind (Keep.noteLocals hb _) fun _ =>
    Keep.ite (fun _ => Keep.bind (Keep.call hb hf) fun _ => Keep.pure _) fun _ =>
      fun s hs => hbE s _ (hp s hs)

theorem sendBody_keeps {n : Byte} {buf : List Byte} (hb : Blind D) (hs : Keep D E (startBody c n buf))
    (hi : Keep D E initiateBody) (he : Keep D E (endBody c)) : Keep D E (sendBody c n buf) :=
  Keep.bind (Keep.call hb hs) fun _ => Keep.ite (fun _ => Keep.pure _) fun _ =>
    Keep.bind (Keep.call hb hi) fun _ => Keep.bind (Keep.call hb he) fun _ => Keep.pure _

theorem pollReceivedBody_keeps (hb : Blind D) (hx : Keep D E (writeCommandBody c.opcNop)) :
    Keep D E (pollReceivedBody c) := Keep.bind (writeCommand_keeps hb hx) fun _ => Keep.pure _

theorem evaluate_keeps (r : Reading) (hb : Blind D) (ha : ∀ p s, D s → D (s.alerted p)) : Keep D E (evaluate r) :=
  Keep.ite (fun _ => Keep.internal hb (ha _)) fun _ => Keep.pure _

theorem bootBody_keeps (hb : Blind D) (hboard : ∀ s, D s → D s.boardInitialised) (hi : Keep D E (initBody c))
    (hl : Keep D E (startListeningBody c)) (ha : ∀ s, D s → D s.armed) : Keep D E (bootBody c) :=
  Keep.bind (Keep.internal hb hboard) fun _ => Keep.bind (Keep.call hb hi) fun _ => Keep.bind (Keep.noteLocals hb _) fun _ => by
    split
    · exact Keep.bind (Keep.call hb (Keep.guarded hl)) fun _ => Keep.bind (Keep.internal hb ha) fun _ => Keep.pure _
    · exact Keep.bind (Keep.internal hb ha) fun _ => Keep.pure _

theorem sampleSensor_keeps (hb : Blind D) (h : ∀ s, D s → D s.sampled) : Keep D E sampleSensor :=
  fun s hs => hb s.sampled _ (h s hs)

theorem childTickBody_keeps (hb : Blind D) (hd : ∀ n s, D s → D (s.withTickdiv n)) (hsam : ∀ s, D s → D s.sampled)
    (hs : ∀ buf, Keep D E (sendBody c Config.payloadLen buf)) (ha : ∀ p s, D s → D (s.alerted p)) : Keep D E (childTickBody c) :=
  Keep.bind Keep.get fun _ => Keep.ite
    (fun _ => Keep.bind (Keep.internal hb (hd 0)) fun _ => Keep.bind (sampleSensor_keeps hb hsam) fun _ => Keep.bind (Keep.call hb (Keep.guarded (hs _))) fun _ =>
        evaluate_keeps _ hb ha)
    fun _ => Keep.internal hb (hd _)

theorem countTick_keeps (hb : Blind D) (hc : ∀ n s, D s → D (s.withCountdown n)) (ha : ∀ p s, D s → D (s.alerted p)) :
    Keep D E countTick :=
  Keep.bind Keep.get fun _ => Keep.bind (Keep.internal hb (hc _)) fun _ =>
    Keep.ite (fun _ => Keep.bind (Keep.internal hb (ha _)) fun _ => Keep.internal hb (hc _)) fun _ =>
      fun s hs => hb s _ hs

theorem takePayload_keeps (hb : Blind D) (hr : Keep D E (readFifoBody c Config.payloadLen)) (hst : Keep D E (stopListeningBody c))
    (hl : Keep D E (startListeningBody c)) (hc : ∀ n s, D s → D (s.withCountdown n))
    (ha : ∀ p s, D s → D (s.alerted p)) : Keep D E (takePayload c) :=
  Keep.bind (Keep.call hb hr) fun _ => Keep.bind (Keep.noteLocals hb _) fun _ => Keep.bind (Keep.call hb hst) fun _ =>
    Keep.bind (Keep.call hb (Keep.guarded hl)) fun _ => Keep.bind (Keep.internal hb (hc _)) fun _ =>
      evaluate_keeps _ hb ha

theorem parentTickBody_keeps (hb : Blind D) (hc : Keep D E countTick) (hp : Keep D E (pollReceivedBody c))
    (ht : Keep D E (takePayload c)) : Keep D E (parentTickBody c) :=
  Keep.bind hc fun _ => Keep.bind (Keep.call hb hp) fun r => by
    cases r
    · exact Keep.pure _
    · exact ht

/-- The service of an operation keeps what its body keeps, if a response and the sequencer do not matter to it. -/
theorem serve_keeps {t : Task} {m : Eng Reply} {s u : State} (hb : Blind D) (hbE : ∀ w s, E w s → D s)
    (hresp : ∀ s r, D s → D { s with resp := r }) (h : Keep D E m) (hs : D s) (hu : serve t m s = .next u) : D u := by
  unfold serve at hu
  split at hu
  · cases hu; exact hresp s _ hs
  · have := Keep.call (t := t) hb h s.unanswered (hresp s _ hs)
    revert this hu
    cases (call t m).run s.unanswered with
    | ok r v => intro hu hv; cases hu; exact hresp _ _ hv
    | error w v => intro hu hv; cases hu; exact hbE w _ hv

/-- A service never faults and is never refused. -/
theorem serve_next (t : Task) (m : Eng Reply) (s : State) : ∃ u, serve t m s = .next u := by
  unfold serve
  split
  · exact ⟨_, rfl⟩
  · cases h : (call t m).run s.unanswered <;> exact ⟨_, rfl⟩

end

end Sys2Proof.Machine
end

