-- ==== Sys2Proof/Laws/Actions.lean ====
section
/-! SUPPORT. The meanings are runs of atomic actions (00_scope.md R12): for every operation, its body, run whole, leaves the
state the engine reaches by single steps (`act`), and what it returns is what its last step delivers. One judgement
(`Follows`) says so for each operation; the rules before it say how it is put together. At the end: what waits in an
exchange that does not complete waits for ever (60_exceptions.md R293). -/

namespace Sys2Proof.Machine

/-! Runs of single steps. -/

theorem acts_succ (n : Nat) (s : State) : acts (n + 1) s = act (acts n s) := by
  induction n generalizing s with
  | zero => rfl
  | succ n ih => exact ih (act s)

/-- From `u` the engine reaches `s` by single steps, and was not idle before. -/
def Reach (u s : State) : Prop := ∃ n, acts n u = s ∧ ∀ m < n, (acts m u).seq ≠ []

theorem Reach.refl (u : State) : Reach u u := ⟨0, rfl, fun _ h => absurd h (Nat.not_lt_zero _)⟩

theorem Reach.step {u s : State} (h : Reach u s) (hs : s.seq ≠ []) : Reach u (act s) := by
  obtain ⟨n, rfl, hn⟩ := h
  refine ⟨n + 1, acts_succ n u, fun m hm => ?_⟩
  rcases Nat.lt_or_eq_of_le (Nat.le_of_lt_succ hm) with h | rfl
  · exact hn m h
  · exact hs

/-- The plan does not look at the callers. -/
theorem plan_seq (s : State) (q : List Position) (p : Position) : plan { s with seq := q } p = plan s p := rfl

/-! Where the engine stands. -/

/-- The state a whole run has when the engine, by single steps from `u`, is about to perform action `k` of `t` with the
result `r` of the sub-operation before in view. -/
def At (u : State) (c : Cfg) (t : Task) (cs : List Position) (k : Nat) (r : Option Reply) (L : Locals → State → Prop)
    (s : State) : Prop :=
  ∃ l, s.seq = ⟨t, k, l⟩ :: cs ∧ l.result = none ∧ L l s ∧ s.cfg = c ∧
    ∃ v, Reach u v ∧ v.seq ≠ [] ∧ act v = perform s (plan s ⟨t, k, { l with result := r }⟩)

/-- A sub-operation has returned `r` into action `k` of `t`. -/
def Back (u : State) (c : Cfg) (t : Task) (cs : List Position) (k : Nat) (r : Reply) (L : Locals → Prop) (s : State) : Prop :=
  ∃ l, s.seq = ⟨t, k, l⟩ :: cs ∧ l.result = none ∧ L l ∧ s.cfg = c ∧ Reach u (s.deliver r)

/-- The operation has returned `r`. -/
def Done (u : State) (c : Cfg) (cs : List Position) (r : Reply) (s : State) : Prop :=
  ∃ p, s.seq = p :: cs ∧ s.cfg = c ∧ Reach u (s.leaving.deliver r)

/-- The engine has stopped where the run waits. -/
def Stopped (u : State) (w : Wait) (s : State) : Prop := Reach u s ∧ Halted w s

/-- An operation entered runs, by single steps, to the response `f` of what the whole run returns, or to its wait. -/
def Follows (c : Cfg) (t : Task) {α : Type} (m : Eng α) (f : α → Reply) : Prop :=
  ∀ u s, s.cfg = c → Reach u (s.entering t) →
    match (call t m).run s with
    | .ok a s' => Reach u (s'.deliver (f a)) ∧ s'.seq = advance s.seq ∧ s'.cfg = c
    | .error w s' => Stopped u w s'

section

variable {u : State} {c : Cfg} {t : Task} {cs : List Position} {k : Nat} {r : Option Reply} {α : Type}
  {L : Locals → State → Prop}

theorem Locals.result_none {l : Locals} (h : l.result = none) : { l with result := none } = l := by
  cases l; cases h; rfl

theorem At.of_reach {s : State} {l : Locals} (hs : s.seq = ⟨t, k, l⟩ :: cs) (hl : l.result = none) (hL : L l s)
    (hc : s.cfg = c) (h : Reach u s) : At u c t cs k none L s := by
  refine ⟨l, hs, hl, hL, hc, s, h, by simp [hs], ?_⟩
  have ht : Position.taken ⟨t, k, l⟩ = ⟨t, k, l⟩ := by simp [Position.taken, hl]
  have hw : s.withTop Position.taken = s := by
    unfold State.withTop; rw [hs]; simp only [mapTop, ht]; rw [← hs]
  simp only [act, hs, nextAt, hw, ht, hl]

theorem At.of_back {q : Reply} {f : Locals → Locals} {L' : Locals → Prop} {s : State} (h : Back u c t cs k q L' s)
    (hf : ∀ l, l.result = none → { takenIn t k q { l with result := some q } with result := none } = f l)
    (hL : ∀ l s, L' l → L (f l) s) (hn : ∀ l, l.result = none → (f l).result = none) :
    At u c t cs k (some q) L (s.withTop fun p => { p with loc := f p.loc }) := by
  obtain ⟨l, hs, hl, hL', hc, hr⟩ := h
  have hd : s.deliver q = { s with seq := ⟨t, k, { l with result := some q }⟩ :: cs } := by
    unfold State.deliver State.withTop; rw [hs]; rfl
  refine ⟨f l, by simp [State.withTop, hs, mapTop], hn l hl, hL l _ hL', hc, _, hr, by simp [hd], ?_⟩
  have ht : Position.taken ⟨t, k, { l with result := some q }⟩ = ⟨t, k, f l⟩ := by
    simp only [Position.taken]; rw [← hf l hl]
  have hw : (s.deliver q).withTop Position.taken = s.withTop fun p => { p with loc := f p.loc } := by
    simp only [hd, State.withTop, hs, mapTop, ht]
  simp only [act, hw]
  rw [hd]
  simp only [nextAt, ht]
  rfl

/-- Nothing is taken in. -/
theorem At.of_back' {q : Reply} {L' : Locals → Prop} {s : State} (h : Back u c t cs k q L' s)
    (hf : ∀ l, takenIn t k q l = l) (hL : ∀ l s, L' l → L l s) : At u c t cs k (some q) L s := by
  have := At.of_back (L := L) (f := id) h (fun l hl => by rw [hf]; exact Locals.result_none hl) hL fun _ h => h
  obtain ⟨l, hs, _⟩ := h
  have hw : (s.withTop fun p => { p with loc := id p.loc }) = s := by
    unfold State.withTop; rw [hs]; simp only [mapTop, id]; rw [← hs]
  rwa [hw] at this

/-- An atomic action. -/
theorem At.act {a : Action} {m : Eng α} {L' : α → Locals → State → Prop}
    (hm : ∀ s, after (m.run s) = after (a.run.run s))
    (hp : ∀ s l, s.cfg = c → L l s → plan s ⟨t, k, { l with result := r }⟩ = .act a)
    (hq : ∀ s l, s.seq = ⟨t, k, l⟩ :: cs → l.result = none → L l s → s.cfg = c → match m.run s with
      | .ok v s' => s'.cfg = c ∧ ∃ l', s'.seq = ⟨t, k + 1, l'⟩ :: cs ∧ l'.result = none ∧ L' v l' s'
      | .error w s' => Halted w s') :
    Spec (At u c t cs k r L) m (fun v => At u c t cs (k + 1) none (L' v)) (Stopped u) := by
  rintro s ⟨l, hs, hl, hL, hc, v, hv, hv0, he⟩
  have h1 : Reach u (after (m.run s)) := by
    rw [hm, show after (a.run.run s) = perform s (.act a) from rfl, ← hp s l hc hL, ← he]; exact hv.step hv0
  have h2 := hq s l hs hl hL hc
  revert h1 h2
  cases m.run s with
  | ok a s' => exact fun h1 ⟨hc', l', hs', hl', hL'⟩ => At.of_reach hs' hl' hL' hc' h1
  | error w s' => exact fun h1 h2 => ⟨h1, h2⟩

/-- An action of the bus or a line. -/
theorem At.action {a : Action} {e : TraceEvent} {f : State → State} (ha : a.run = action e f)
    (hp : ∀ s l, s.cfg = c → L l s → plan s ⟨t, k, { l with result := r }⟩ = .act a)
    (hf : ∀ s, (f s).seq = s.seq ∧ (f s).cfg = s.cfg) {L' : Locals → State → Prop}
    (hL : ∀ l s, L l s → L' l ((f (gap s)).stamped e)) :
    Spec (At u c t cs k r L) (Machine.action e f) (fun _ => At u c t cs (k + 1) none L') (Stopped u) :=
  At.act (L' := fun _ => L') (fun s => by rw [ha]) hp fun s l hs hl hL0 hc =>
    ⟨by show (f (gap s)).cfg = c; rw [(hf _).2]; simpa using hc, l, by
      show advance (f (gap s)).seq = _; rw [(hf _).1, gap_seq, hs]; rfl, hl, hL l s hL0⟩

/-- An internal action. -/
theorem At.internal {f g : State → State}
    (hp : ∀ s l, s.cfg = c → L l s → plan s ⟨t, k, { l with result := r }⟩ = .act (.internal g))
    (hg : ∀ s l, s.cfg = c → L l s → g s = f s)
    (hf : ∀ s, (f s).seq = s.seq ∧ (f s).cfg = s.cfg) {L' : Locals → State → Prop} (hL : ∀ l s, L l s → L' l (f s).advanced) :
    Spec (At u c t cs k r L) (Machine.internal f) (fun _ => At u c t cs (k + 1) none L') (Stopped u) := by
  rintro s ⟨l, hs, hl, hL0, hc, v, hv, hv0, he⟩
  refine At.of_reach (l := l) ?_ hl (hL l s hL0) ((hf s).2.trans hc) ?_
  · show advance (f s).seq = _; rw [(hf s).1, hs]; rfl
  · rw [← hg s l hc hL0, show (g s).advanced = perform s (.act (.internal g)) from rfl, ← hp s l hc hL0, ← he]
    exact hv.step hv0

/-- An exchange. -/
theorem At.xchg {shown : Bool} {out : Byte}
    (hp : ∀ s l, s.cfg = c → plan s ⟨t, k, l⟩ = .act (.xchg shown out))
    {L' : Byte → Locals → State → Prop}
    (hL : ∀ l s, L l s → L' ((gap s).answer out).1 l ((gap s).exchanged shown out)) :
    Spec (At u c t cs k none L) (Machine.xchg shown out) (fun v => At u c t cs (k + 1) none (L' v)) (Stopped u) := by
  refine At.act (a := .xchg shown out) ?_ (fun s l hc _ => hp s _ hc) ?_
  · intro s
    show _ = after ((Machine.xchg shown out >>= fun _ => pure ()).run s)
    rw [EStateM.run_bind]
    cases (Machine.xchg shown out).run s <;> rfl
  · intro s l hs hl hL0 hc
    rw [xchg_run_eq]
    by_cases h : s.port.left = some 0
    · simp only [h, if_true]
      refine ⟨by simpa [State.shifting] using h, rfl, ?_⟩
      have : ((gap s).shifting out).seq = ⟨t, k, l⟩ :: cs := by simpa [State.shifting] using hs
      simp only [exchanging, this, hl, if_true]
      rw [hp _ _ (by simpa [State.shifting] using hc)]
      rfl
    · simp only [h, if_false]
      exact ⟨by simpa using hc, l, by simp [hs, advance], hl, hL l s hL0⟩

/-- An exchange inside a burst. -/
theorem At.xchgKept {shown : Bool} {out : Byte}
    (hp : ∀ s l, s.cfg = c → plan s ⟨t, k, l⟩ = .act (.xchgKept shown out))
    {L' : Byte → Locals → State → Prop}
    (hL : ∀ v l s s', L l s → L' v (Locals.keep shown v l) s') :
    Spec (At u c t cs k none L) (Machine.xchgKept shown out) (fun v => At u c t cs (k + 1) none (L' v)) (Stopped u) := by
  refine At.act (a := .xchgKept shown out) ?_ (fun s l hc _ => hp s _ hc) ?_
  · intro s
    show _ = after ((Machine.xchgKept shown out >>= fun _ => pure ()).run s)
    rw [EStateM.run_bind]
    cases (Machine.xchgKept shown out).run s <;> rfl
  · intro s l hs hl hL0 hc
    simp only [Machine.xchgKept, EStateM.run_bind, xchg_run_eq]
    by_cases h : s.port.left = some 0
    · simp only [h, if_true]
      refine ⟨by simpa [State.shifting] using h, rfl, ?_⟩
      have : ((gap s).shifting out).seq = ⟨t, k, l⟩ :: cs := by simpa [State.shifting] using hs
      simp only [exchanging, this, hl, if_true]
      rw [hp _ _ (by simpa [State.shifting] using hc)]
      rfl
    · simp only [h, if_false, noteLocals_run]
      refine ⟨by simpa using hc, Locals.keep shown ((gap s).answer out).1 l, ?_, hl, hL _ _ s _ hL0⟩
      simp [State.withTop, hs, advance, mapTop]

/-- A sub-operation. -/
theorem At.sub {t' : Task} {m : Eng α} {f : α → Reply} {L' : Locals → Prop} (hm : Follows c t' m f)
    (hp : ∀ s l, s.cfg = c → L l s → plan s ⟨t, k, { l with result := r }⟩ = .enter t') (hL : ∀ l s, L l s → L' l) :
    Spec (At u c t cs k r L) (call t' m) (fun a => Back u c t cs (k + 1) (f a) L') (Stopped u) := by
  rintro s ⟨l, hs, hl, hL0, hc, v, hv, hv0, he⟩
  have h := hm u s hc (by rw [show s.entering t' = perform s (.enter t') from rfl, ← hp s l hc hL0, ← he]; exact hv.step hv0)
  revert h
  cases (call t' m).run s with
  | ok a s' => exact fun ⟨h1, h2, h3⟩ => ⟨l, by rw [h2, hs]; rfl, hl, hL l s hL0, h3, h1⟩
  | error w s' => exact fun h => h

/-- Actions passed over. -/
theorem At.skip {j : Nat} (hp : ∀ s l, s.cfg = c → L l s → plan s ⟨t, k, { l with result := r }⟩ = .goTo j)
    {L' : Locals → State → Prop} (hL : ∀ l s q, L l s → L' l { s with seq := q }) :
    Spec (At u c t cs k r L) (skipTo j) (fun _ => At u c t cs j none L') (Stopped u) := by
  rintro s ⟨l, hs, hl, hL0, hc, v, hv, hv0, he⟩
  refine At.of_reach (l := l) ?_ hl (hL l s _ hL0) hc ?_
  · simp [State.atAction, State.withTop, hs, mapTop]
  · rw [show s.atAction j = perform s (.goTo j) from rfl, ← hp s l hc hL0, ← he]; exact hv.step hv0

/-- The return. -/
theorem At.leave {q : Reply} {s : State} (h : At u c t cs k r L s)
    (hp : ∀ s l, s.cfg = c → L l s → plan s ⟨t, k, { l with result := r }⟩ = .leave q) : Done u c cs q s := by
  obtain ⟨l, hs, hl, hL0, hc, v, hv, hv0, he⟩ := h
  exact ⟨_, hs, hc, by rw [show s.leaving.deliver q = perform s (.leave q) from rfl, ← hp s l hc hL0, ← he]; exact hv.step hv0⟩

/-- The state is read. -/
theorem At.read {m : State → Eng α} {Q : α → State → Prop} {E : Wait → State → Prop}
    (h : ∀ s, Spec (At u c t cs k r fun l t => L l t ∧ t = s) (m s) Q E) : Spec (At u c t cs k r L) (MonadState.get >>= m) Q E :=
  fun s ⟨l, h1, h2, h3, h4, h5⟩ => h s s ⟨l, h1, h2, ⟨h3, rfl⟩, h4, h5⟩

/-- From a body to its operation. -/
theorem Follows.intro {m : Eng α} {f : α → Reply}
    (h : ∀ u cs, Spec (At u c t cs 0 none fun l _ => l = Locals.start) m (fun a => Done u c cs (f a)) (Stopped u)) :
    Follows c t m f := by
  intro u s hc hr
  have := h u s.seq (s.entering t) (At.of_reach (l := Locals.start) rfl rfl rfl hc hr)
  rw [call_run]
  revert this
  cases m.run (s.entering t) with
  | ok a s' => exact fun ⟨p, hs, hc, hd⟩ => ⟨hd, by simp [hs, popped], by simpa using hc⟩
  | error w s' => exact fun h => h

end

/-! The frames. -/

section

variable {u : State} {c : Cfg} {t : Task} {cs : List Position} {k : Nat} {r : Option Reply} {L : Locals → State → Prop}

theorem At.csnAssert (hp : ∀ s l, s.cfg = c → plan s ⟨t, k, l⟩ = .act .csnAssert)
    {L' : Locals → Prop} (hL : ∀ l s, L l s → L' l) :
    Spec (At u c t cs k none L) Machine.csnAssert (fun _ => At u c t cs (k + 1) none fun l _ => L' l) (Stopped u) :=
  At.action (a := .csnAssert) rfl (fun s _ hc _ => hp s _ hc) (fun _ => ⟨rfl, rfl⟩) fun l s h => hL l s h

theorem At.csnDeassert (hp : ∀ s l, s.cfg = c → plan s ⟨t, k, l⟩ = .act .csnDeassert)
    {L' : Locals → State → Prop} (hL : ∀ l s, L l s → L' l ((gap s).deselected.stamped .csnDeassert)) :
    Spec (At u c t cs k none L) Machine.csnDeassert (fun _ => At u c t cs (k + 1) none L') (Stopped u) :=
  At.action (a := .csnDeassert) rfl (fun s _ hc _ => hp s _ hc) (fun _ => ⟨rfl, rfl⟩) hL

theorem readRegister_follows (c : Cfg) (a : Byte) : Follows c (.op (.readRegister a)) (readRegisterBody a) Reply.byte :=
  Follows.intro fun _ _ =>
    Spec.bind (At.csnAssert (L' := fun _ => True) (fun _ _ _ => rfl) fun _ _ _ => trivial) fun _ =>
    Spec.bind (At.xchg (L' := fun _ _ _ => True) (fun _ _ _ => rfl) fun _ _ _ => trivial) fun _ =>
    Spec.bind (At.xchg (L' := fun v _ s => s.port.shiftIn = v) (fun _ _ _ => rfl) fun _ _ _ => rfl) fun v =>
    Spec.bind (At.csnDeassert (L' := fun _ s => s.port.shiftIn = v) (fun _ _ _ => rfl)
      fun _ s h => by show (gap s).port.shiftIn = v; rw [gap_port]; exact h) fun _ =>
    Spec.pure fun s h => h.leave fun _ _ _ hv => by rw [← hv]; rfl

theorem writeRegister_follows (c : Cfg) (a d : Byte) :
    Follows c (.op (.writeRegister a d)) (writeRegisterBody a d) fun _ => Reply.plain :=
  Follows.intro fun _ _ =>
    Spec.bind (At.csnAssert (L' := fun _ => True) (fun _ _ _ => rfl) fun _ _ _ => trivial) fun _ =>
    Spec.bind (At.xchg (L' := fun _ _ _ => True) (fun _ _ _ => rfl) fun _ _ _ => trivial) fun _ =>
    Spec.bind (At.xchg (L' := fun _ _ _ => True) (fun _ _ _ => rfl) fun _ _ _ => trivial) fun _ =>
    Spec.mono (At.csnDeassert (L' := fun _ _ => True) (fun _ _ _ => rfl) fun _ _ _ => trivial) (fun _ h => h)
      (fun _ _ h => h.leave fun _ _ _ _ => rfl) fun _ _ h => h

theorem writeCommand_follows (c : Cfg) (b : Byte) : Follows c (.op (.writeCommand b)) (writeCommandBody b) Reply.byte :=
  Follows.intro fun _ _ =>
    Spec.bind (At.csnAssert (L' := fun _ => True) (fun _ _ _ => rfl) fun _ _ _ => trivial) fun _ =>
    Spec.bind (At.xchg (L' := fun v _ s => s.port.shiftIn = v) (fun _ _ _ => rfl) fun _ _ _ => rfl) fun v =>
    Spec.bind (At.csnDeassert (L' := fun _ s => s.port.shiftIn = v) (fun _ _ _ => rfl)
      fun _ s h => by show (gap s).port.shiftIn = v; rw [gap_port]; exact h) fun _ =>
    Spec.pure fun s h => h.leave fun _ _ _ hv => by rw [← hv]; rfl

/-! Bursts: the list of a frame after its first `j` actions is the data bytes and the end. -/

/-- What the plan says inside a burst. -/
theorem actionAt_append (pre : List Action) (a : Action) (post : List Action) (q : Reply) :
    actionAt (pre ++ a :: post) q pre.length = .act a := by
  simp [actionAt]

theorem actionAt_end (l : List Action) (q : Reply) : actionAt l q l.length = .leave q := by
  simp [actionAt]

/-- The data bytes sent, from the place `k` of the list. -/
theorem At.sendAll (bytes : List Byte) {pre post all : List Action} {R : State → Locals → Reply}
    (hp : ∀ s k l, s.cfg = c → plan s ⟨t, k, l⟩ = actionAt all (R s l) k)
    (he : all = pre ++ bytes.map (.xchgKept false) ++ post) :
    Spec (At u c t cs pre.length none fun _ _ => True) (sendAll bytes)
      (fun _ => At u c t cs (pre.length + bytes.length) none fun _ _ => True) (Stopped u) := by
  induction bytes generalizing pre with
  | nil => exact Spec.pure fun _ h => h
  | cons b bytes ih =>
    refine Spec.bind (At.xchgKept (out := b) (L' := fun _ _ _ => True) (fun s l hc => ?_) fun _ _ _ _ _ => trivial) fun _ => ?_
    · rw [hp s _ l hc, he]; simp only [List.map_cons, List.append_assoc, List.cons_append]; exact actionAt_append _ _ _ _
    · have := ih (pre := pre ++ [.xchgKept false b]) (by rw [he]; simp)
      simpa [Nat.add_assoc, Nat.add_comm 1] using this

/-- The data bytes received, kept in the caller's buffer. -/
theorem At.receiveAll (n : Nat) {pre post all : List Action} {R : State → Locals → Reply} (b0 : List Byte)
    (hp : ∀ s k l, s.cfg = c → plan s ⟨t, k, l⟩ = actionAt all (R s l) k)
    (he : all = pre ++ (List.replicate n Config.dummy).map (.xchgKept true) ++ post) :
    Spec (At u c t cs pre.length none fun l _ => l.buf = b0) (receiveAll n)
      (fun bytes => At u c t cs (pre.length + n) none fun l _ => l.buf = b0 ++ bytes) (Stopped u) := by
  induction n generalizing pre b0 with
  | zero => exact Spec.pure fun _ h => by simpa using h
  | succ n ih =>
    refine Spec.bind (At.xchgKept (out := Config.dummy) (L' := fun v l _ => l.buf = b0 ++ [v]) (fun s l hc => ?_)
      fun v l _ _ h => by simp [Locals.keep, h]) fun v => ?_
    · rw [hp s _ l hc, he]
      simp only [List.replicate_succ, List.map_cons, List.append_assoc, List.cons_append]; exact actionAt_append _ _ _ _
    · have := ih (pre := pre ++ [.xchgKept true Config.dummy]) (b0 ++ [v]) (by rw [he]; simp [List.replicate_succ])
      refine Spec.bind (by simpa using this) fun bytes => Spec.pure fun _ h => ?_
      simpa [Nat.add_assoc, Nat.add_comm 1] using h

/-- The bytes of a raw frame. -/
theorem At.exchangeAll (bytes : List Byte) {pre post all : List Action} {R : State → Locals → Reply} (b0 : List Byte)
    (hp : ∀ s k l, s.cfg = c → plan s ⟨t, k, l⟩ = actionAt all (R s l) k)
    (he : all = pre ++ bytes.map (.xchgKept true) ++ post) :
    Spec (At u c t cs pre.length none fun l _ => l.buf = b0) (exchangeAll bytes)
      (fun ins => At u c t cs (pre.length + bytes.length) none fun l _ => l.buf = b0 ++ ins) (Stopped u) := by
  induction bytes generalizing pre b0 with
  | nil => exact Spec.pure fun _ h => by simpa using h
  | cons b bytes ih =>
    refine Spec.bind (At.xchgKept (out := b) (L' := fun v l _ => l.buf = b0 ++ [v]) (fun s l hc => ?_)
      fun v l _ _ h => by simp [Locals.keep, h]) fun v => ?_
    · rw [hp s _ l hc, he]; simp only [List.map_cons, List.append_assoc, List.cons_append]; exact actionAt_append _ _ _ _
    · have := ih (pre := pre ++ [.xchgKept true b]) (b0 ++ [v]) (by rw [he]; simp)
      refine Spec.bind (by simpa using this) fun bytes => Spec.pure fun _ h => ?_
      simpa [Nat.add_assoc, Nat.add_comm 1] using h

/-- A frame that sends its data bytes. -/
theorem sendFrame_follows {m : Eng Unit} {op : Byte} {bytes : List Byte}
    (hp : ∀ s k l, s.cfg = c → plan s ⟨t, k, l⟩ = actionAt (frameActions false op bytes) Reply.plain k)
    (hm : m = do Machine.csnAssert; let _ ← Machine.xchg false op; Machine.sendAll bytes; Machine.csnDeassert) :
    Follows c t m fun _ => Reply.plain := by
  subst hm
  refine Follows.intro fun _ _ =>
    Spec.bind (At.csnAssert (L' := fun _ => True) (fun s l hc => hp s 0 l hc) fun _ _ _ => trivial) fun _ =>
    Spec.bind (At.xchg (L' := fun _ _ _ => True) (fun s l hc => hp s 1 l hc) fun _ _ _ => trivial) fun _ =>
    Spec.bind (At.sendAll (pre := [.csnAssert, .xchg false op]) (post := [.csnDeassert]) bytes hp rfl) fun _ =>
    Spec.mono (At.csnDeassert (L' := fun _ _ => True) (fun s l hc => ?_) fun _ _ _ => trivial) (fun _ h => h)
      (fun _ s h => h.leave fun s l hc _ => ?_) fun _ _ h => h
  · rw [hp s _ l hc]
    have := actionAt_append (.csnAssert :: .xchg false op :: bytes.map (.xchgKept false)) .csnDeassert [] Reply.plain
    simpa [frameActions, Nat.add_comm 2] using this
  · rw [hp s _ _ hc]
    have := actionAt_end (frameActions false op bytes) Reply.plain
    simpa [frameActions, Nat.add_comm 2] using this

theorem writeRegisterBurst_follows (c : Cfg) (a n : Byte) (buf bytes : List Byte) (h : payload n buf = bytes) :
    Follows c (.op (.writeRegisterBurst a n buf)) (writeRegisterBurstBody a bytes) fun _ => Reply.plain :=
  sendFrame_follows (op := writeOpcode a) (bytes := bytes) (fun _ _ _ _ => by rw [← h]; rfl) rfl

theorem writeFifo_follows (c : Cfg) (n : Byte) (buf : List Byte) :
    Follows c (.op (.writeFifo n buf)) (writeFifoBody c n buf) fun _ => Reply.plain := by
  unfold writeFifoBody
  by_cases hn : n = 0
  · rw [if_pos hn]
    exact Follows.intro fun _ _ => Spec.pure fun s h => h.leave fun s l _ _ => by simp [plan, fifoActions, hn, actionAt]
  · rw [if_neg hn]
    exact sendFrame_follows (op := c.opcWTxPayload) (bytes := payload n buf)
      (fun s k l hc => by simp only [plan, fifoActions, hn, if_false, hc]) rfl

theorem readFifo_follows (c : Cfg) (n : Byte) : Follows c (.op (.readFifo n)) (readFifoBody c n) Reply.bytes := by
  unfold readFifoBody
  by_cases hn : n = 0
  · rw [if_pos hn]
    exact Follows.intro fun _ _ => Spec.pure fun s h => h.leave fun s l _ hl => by
      subst hl; simp [plan, fifoActions, hn, actionAt, Locals.start]
  · rw [if_neg hn]
    have hp : ∀ s k l, s.cfg = c → plan s ⟨.op (.readFifo n), k, l⟩ = actionAt
        (frameActions true c.opcRRxPayload (List.replicate n.toNat Config.dummy)) (Reply.bytes l.buf) k :=
      fun s k l hc => by simp only [plan, fifoActions, hn, if_false, hc]
    refine Follows.intro fun _ _ =>
      Spec.bind (At.csnAssert (L' := fun l => l.buf = []) (fun s l hc => hp s 0 l hc) fun l _ h => by rw [h]; rfl) fun _ =>
      Spec.bind (At.xchg (L' := fun _ l _ => l.buf = []) (fun s l hc => hp s 1 l hc) fun _ _ h => h) fun _ =>
      Spec.bind (At.receiveAll (pre := [.csnAssert, .xchg true c.opcRRxPayload]) (post := [.csnDeassert]) n.toNat [] hp rfl)
        fun bytes =>
      Spec.bind (At.csnDeassert (L' := fun l _ => l.buf = bytes) (fun s l hc => ?_) fun _ _ h => by simpa using h) fun _ =>
      Spec.pure fun s h => h.leave fun s l hc hl => ?_
    · rw [hp s _ l hc]
      have := actionAt_append (.csnAssert :: .xchg true c.opcRRxPayload ::
        (List.replicate n.toNat Config.dummy).map (.xchgKept true)) .csnDeassert [] (Reply.bytes l.buf)
      simpa [frameActions, Nat.add_comm 2] using this
    · rw [hp s _ _ hc, ← hl]
      have := actionAt_end (frameActions true c.opcRRxPayload (List.replicate n.toNat Config.dummy)) (Reply.bytes l.buf)
      simpa [frameActions, Nat.add_comm 2] using this

theorem rawFrame_follows (c : Cfg) (bytes : List Byte) : Follows c (.frame bytes) (frameBody bytes) id := by
  have hp : ∀ s k l, s.cfg = c → plan s ⟨.frame bytes, k, l⟩ =
      actionAt (rawActions bytes) { outcome := .ok, d := l.buf.headD 0, buf := l.buf.tail } k := fun _ _ _ _ => rfl
  refine Follows.intro fun _ _ =>
    Spec.bind (At.csnAssert (L' := fun l => l.buf = []) (fun s l hc => hp s 0 l hc) fun l _ h => by rw [h]; rfl) fun _ =>
    Spec.bind (At.exchangeAll (pre := [.csnAssert]) (post := [.csnDeassert]) bytes [] hp rfl) fun ins =>
    Spec.bind (At.csnDeassert (L' := fun l _ => l.buf = ins) (fun s l hc => ?_) fun _ _ h => by simpa using h) fun _ =>
    Spec.pure fun s h => h.leave fun s l hc hl => ?_
  · rw [hp s _ l hc]
    have := actionAt_append (.csnAssert :: bytes.map (.xchgKept true)) .csnDeassert []
      { outcome := .ok, d := l.buf.headD 0, buf := l.buf.tail }
    simpa [rawActions, Nat.add_comm 1] using this
  · rw [hp s _ _ hc, ← hl]
    have := actionAt_end (rawActions bytes) { outcome := .ok, d := l.buf.headD 0, buf := l.buf.tail }
    simpa [rawActions, Nat.add_comm 1] using this

/-! The composite operations. -/

variable {E : Wait → State → Prop} {α : Type}

/-- After a sub-operation whose result is not taken in. -/
theorem Spec.back {q : Reply} {L' : Locals → Prop} {m : Eng α} {Q : α → State → Prop}
    (hf : ∀ l, takenIn t k q l = l) (hL : ∀ l s, L' l → L l s) (h : Spec (At u c t cs k (some q) L) m Q E) :
    Spec (Back u c t cs k q L') m Q E :=
  h.mono (fun _ hs => At.of_back' hs hf hL) (fun _ _ h => h) fun _ _ h => h

/-- After a sub-operation whose result is taken in. -/
theorem Spec.note {q : Reply} {L' : Locals → Prop} {f : Locals → Locals}
    (hf : ∀ l, l.result = none → { takenIn t k q { l with result := some q } with result := none } = f l)
    (hn : ∀ l, l.result = none → (f l).result = none) (hL : ∀ l s, L' l → L (f l) s) :
    Spec (Back u c t cs k q L') (noteLocals f) (fun _ => At u c t cs k (some q) L) E :=
  fun _ hs => At.of_back hs hf hL hn

theorem Spec.exists {ι : Type} {P : ι → State → Prop} {m : Eng α} {Q : α → State → Prop} (h : ∀ q, Spec (P q) m Q E) :
    Spec (fun s => ∃ q, P q s) m Q E := fun s ⟨q, hq⟩ => h q s hq

/-- A return after a sub-operation. -/
theorem Back.leave {q q' : Reply} {L' : Locals → Prop} {s : State} (h : Back u c t cs k q L' s)
    (hf : ∀ l, takenIn t k q l = l) (hp : ∀ s l, s.cfg = c → L' l → plan s ⟨t, k, { l with result := some q }⟩ = .leave q') :
    Done u c cs q' s :=
  (At.of_back' (L := fun l _ => L' l) h hf fun _ _ h => h).leave hp

theorem writeValidated_follows (c : Cfg) (a d : Byte) :
    Follows c (.op (.writeValidated a d)) (writeValidatedBody a d) Reply.failIf := by
  refine Follows.intro fun _ _ =>
    Spec.bind (At.sub (L' := fun _ => True) (writeRegister_follows c a d) (fun _ _ _ _ => rfl) fun _ _ _ => trivial) fun _ =>
    Spec.back (L := fun _ _ => True) (fun _ => rfl) (fun _ _ _ => trivial) <|
    Spec.bind (At.sub (L' := fun _ => True) (readRegister_follows c a) (fun _ _ _ _ => rfl) fun _ _ _ => trivial) fun v => ?_
  by_cases hv : v = d
  · rw [if_pos hv]
    exact Spec.back (L := fun _ _ => True) (fun _ => rfl) (fun _ _ _ => trivial) <|
      Spec.bind (At.internal (L' := fun _ _ => True) (g := fun s => s.setCached a d)
        (fun _ _ _ _ => by simp [plan, Position.answer, Reply.byte, hv]) (fun _ _ _ _ => rfl) (fun _ => ⟨rfl, rfl⟩)
        fun _ _ _ => trivial) fun _ => Spec.pure fun _ h => h.leave fun _ _ _ _ => rfl
  · rw [if_neg hv]
    exact Spec.pure fun _ h => h.leave (fun _ => rfl) fun _ _ _ _ => by simp [plan, Position.answer, Reply.byte, hv]

theorem flushTx_follows (c : Cfg) : Follows c (.op .flushTx) (writeCommand c.opcFlushTx) Reply.byte :=
  Follows.intro fun _ _ => Spec.mono (At.sub (L' := fun _ => True) (writeCommand_follows c _)
    (fun _ _ hc _ => by rw [← hc]; rfl) fun _ _ _ => trivial) (fun _ h => h)
    (fun _ _ h => h.leave (fun _ => rfl) fun _ _ _ _ => rfl) fun _ _ h => h

theorem flushRx_follows (c : Cfg) : Follows c (.op .flushRx) (writeCommand c.opcFlushRx) Reply.byte :=
  Follows.intro fun _ _ => Spec.mono (At.sub (L' := fun _ => True) (writeCommand_follows c _)
    (fun _ _ hc _ => by rw [← hc]; rfl) fun _ _ _ => trivial) (fun _ h => h)
    (fun _ _ h => h.leave (fun _ => rfl) fun _ _ _ _ => rfl) fun _ _ h => h

theorem clearFlags_follows (c : Cfg) (m : Byte) :
    Follows c (.op (.clearFlags m)) (clearFlagsBody c m) fun _ => Reply.plain :=
  Follows.intro fun _ _ => Spec.mono (At.sub (L' := fun _ => True) (writeRegister_follows c _ _)
    (fun _ _ hc _ => by rw [← hc]; rfl) fun _ _ _ => trivial) (fun _ h => h)
    (fun _ _ h => h.leave (fun _ => rfl) fun _ _ _ _ => rfl) fun _ _ h => h

theorem setModeBit_follows (c : Cfg) (m : Byte) :
    Follows c (.op (.setModeBit m)) (setModeBitBody c m) Reply.failIf :=
  Follows.intro fun _ _ => At.read fun s =>
    Spec.mono (At.sub (L' := fun _ => True) (writeValidated_follows c c.regConfig (s.modeByte m))
      (fun t _ hc ht => by rw [← ht.2, ← hc]; rfl) fun _ _ _ => trivial) (fun _ h => h)
      (fun _ _ h => h.leave (fun _ => rfl) fun _ _ _ _ => rfl) (fun _ _ h => h)

theorem start_follows (c : Cfg) (n : Byte) (buf : List Byte) :
    Follows c (.op (.start n buf)) (startBody c n buf) Reply.failIf := by
  refine Follows.intro fun _ _ =>
    Spec.bind (At.sub (L' := fun _ => True) (clearFlags_follows c _) (fun _ _ hc _ => by rw [← hc]; rfl)
      fun _ _ _ => trivial) fun _ =>
    Spec.back (L := fun _ _ => True) (fun _ => rfl) (fun _ _ _ => trivial) <|
    Spec.bind (At.sub (L' := fun _ => True) (setModeBit_follows c _) (fun _ _ _ _ => rfl) fun _ _ _ => trivial) fun f => ?_
  cases f
  · exact Spec.back (L := fun _ _ => True) (fun _ => rfl) (fun _ _ _ => trivial) <|
      Spec.bind (At.sub (L' := fun _ => True) (flushTx_follows c) (fun _ _ _ _ => rfl) fun _ _ _ => trivial) fun _ =>
      Spec.back (L := fun _ _ => True) (fun _ => rfl) (fun _ _ _ => trivial) <|
      Spec.bind (At.sub (L' := fun _ => True) (writeFifo_follows c n buf) (fun _ _ _ _ => rfl) fun _ _ _ => trivial)
        fun _ => Spec.pure fun _ h => h.leave (fun _ => rfl) fun _ _ _ _ => rfl
  · exact Spec.pure fun _ h => h.leave (fun _ => rfl) fun _ _ _ _ => rfl

theorem At.waitUs {us : Nat} (hp : ∀ s l, s.cfg = c → L l s → plan s ⟨t, k, { l with result := r }⟩ = .act (.wait us))
    {L' : Locals → Prop} (hL : ∀ l s, L l s → L' l) :
    Spec (At u c t cs k r L) (Machine.waitUs us) (fun _ => At u c t cs (k + 1) none fun l _ => L' l) (Stopped u) :=
  At.action (a := .wait us) rfl hp (fun _ => ⟨rfl, rfl⟩) fun l s h => hL l s h

theorem raised_seq_cfg (s : State) : s.raised.seq = s.seq ∧ s.raised.cfg = s.cfg := by
  unfold State.raised; cases s.ce <;> exact ⟨rfl, rfl⟩

theorem initiate_follows (c : Cfg) : Follows c (.op .initiate) initiateBody fun _ => Reply.plain :=
  Follows.intro fun _ _ =>
    Spec.bind (At.action (a := .ceHigh) (L' := fun _ _ => True) rfl (fun _ l _ h => by subst h; rfl) raised_seq_cfg
      fun _ _ _ => trivial) fun _ =>
    Spec.bind (At.waitUs (L' := fun _ => True) (fun _ _ _ _ => rfl) fun _ _ _ => trivial) fun _ =>
    Spec.mono (At.action (a := .ceLow) (L' := fun _ _ => True) rfl (fun _ _ _ _ => rfl) (fun _ => ⟨rfl, rfl⟩)
      fun _ _ _ => trivial) (fun _ h => h) (fun _ _ h => h.leave fun _ _ _ _ => rfl) fun _ _ h => h

/-- One round of End, whatever its local values are (42_packet_io.md R193). -/
theorem endBody_follows (c : Cfg) : Spec (At u c (.op .endSend) cs 0 none fun _ _ => True) (endBody c)
    (fun st => Done u c cs (Reply.byte st)) (Stopped u) := by
  refine
    Spec.bind (At.sub (L' := fun _ => True) (writeCommand_follows c _) (fun _ _ hc _ => by rw [← hc]; rfl)
      fun _ _ _ => trivial) fun st =>
    Spec.bind (Spec.note (L := fun l _ => l.status = st) (fun l hl => by cases l; cases hl; rfl)
      (fun _ h => h) fun _ _ _ => rfl) fun _ => ?_
  by_cases h : dataSentBit c st = true
  · rw [if_pos h]
    exact Spec.bind (At.sub (L' := fun l => l.status = st) (clearFlags_follows c _)
      (fun s l hc hl => by simp only [plan, hl, hc, h, if_true]) fun _ _ h => h) fun _ =>
      Spec.pure fun _ h => h.leave (fun _ => rfl) fun _ _ _ hl => by rw [← hl]; rfl
  · rw [if_neg h]
    rintro s ⟨l, hs, hl, hst, hc, v, hv, hv0, he⟩
    have hp : plan s ⟨.op .endSend, 0 + 1, { l with result := some (Reply.byte st) }⟩ = .goTo 0 := by
      simp only [plan, hst, hc, h]; rfl
    refine ⟨?_, ⟨.op .endSend, 0, l⟩, _, by simp [State.atAction, State.withTop, hs, mapTop]; rfl, by simp [Position.polls, hl]⟩
    rw [show s.atAction 0 = perform s (.goTo 0) from rfl, ← hp, ← he]; exact hv.step hv0

theorem endSend_follows (c : Cfg) : Follows c (.op .endSend) (endBody c) Reply.byte :=
  Follows.intro fun _ _ => (endBody_follows c).mono (fun _ ⟨l, h1, h2, _, h4⟩ => ⟨l, h1, h2, trivial, h4⟩)
    (fun _ _ h => h) fun _ _ h => h

/-- A check still to be made when the operation is entered. -/
theorem guarded_spec {why : State → Option RefuseReason} {m : Eng Reply} {L : Locals → State → Prop}
    (hr : ∀ s l w, s.cfg = c → L l s → why s = some w → plan s ⟨t, k, { l with result := r }⟩ = .leave (Reply.refusedFor w))
    (h : Spec (At u c t cs k r fun l s => L l s ∧ why s = none) m (fun a => Done u c cs a) E) :
    Spec (At u c t cs k r L) (guarded why m) (fun a => Done u c cs a) E := by
  intro s hs
  rw [guarded_run]
  obtain ⟨l, h1, h2, h3, h4, h5⟩ := hs
  cases hw : why s with
  | none => exact h s ⟨l, h1, h2, ⟨h3, hw⟩, h4, h5⟩
  | some w =>
    exact At.leave (L := fun l t => L l t ∧ t = s) ⟨l, h1, h2, ⟨h3, rfl⟩, h4, h5⟩ fun t l hc ⟨hL, ht⟩ =>
      hr t l w hc hL (by rw [ht]; exact hw)

theorem send_follows (c : Cfg) (n : Byte) (buf : List Byte) :
    Follows c (.op (.send n buf)) (guarded (startRefusal n) (sendBody c n buf)) id := by
  refine Follows.intro fun _ _ => guarded_spec (fun s l w _ _ h => by simp only [plan, h]) <|
    Spec.bind (At.sub (L' := fun _ => True) (start_follows c n buf) (fun s l _ h => by simp only [plan, h.2])
      fun _ _ _ => trivial) fun f => ?_
  cases f
  · exact Spec.back (L := fun _ _ => True) (fun _ => rfl) (fun _ _ _ => trivial) <|
      Spec.bind (At.sub (L' := fun _ => True) (initiate_follows c) (fun _ _ _ _ => rfl) fun _ _ _ => trivial) fun _ =>
      Spec.back (L := fun _ _ => True) (fun _ => rfl) (fun _ _ _ => trivial) <|
      Spec.bind (At.sub (L' := fun _ => True) (endSend_follows c) (fun _ _ _ _ => rfl) fun _ _ _ => trivial)
        fun _ => Spec.pure fun _ h => h.leave (fun _ => rfl) fun _ _ _ _ => rfl
  · exact Spec.pure fun _ h => h.leave (fun _ => rfl) fun _ _ _ _ => rfl

theorem startListening_follows (c : Cfg) :
    Follows c (.op .startListening) (guarded cacheRefusal (startListeningBody c)) id := by
  refine Follows.intro fun _ _ => guarded_spec (fun s l w _ _ h => by simp only [plan, h]) <|
    Spec.bind (At.sub (L' := fun _ => True) (clearFlags_follows c _) (fun s l hc h => by simp only [plan, h.2, hc])
      fun _ _ _ => trivial) fun _ =>
    Spec.back (L := fun _ _ => True) (fun _ => rfl) (fun _ _ _ => trivial) <|
    Spec.bind (At.sub (L' := fun _ => True) (setModeBit_follows c _) (fun _ _ _ _ => rfl) fun _ _ _ => trivial) fun f => ?_
  cases f
  · exact Spec.back (L := fun _ _ => True) (fun _ => rfl) (fun _ _ _ => trivial) <|
      Spec.bind (At.action (a := .ceHigh) (L' := fun _ _ => True) rfl (fun _ _ _ _ => rfl) raised_seq_cfg
        fun _ _ _ => trivial) fun _ => Spec.pure fun _ h => h.leave fun _ _ _ _ => rfl
  · exact Spec.pure fun _ h => h.leave (fun _ => rfl) fun _ _ _ _ => rfl

theorem stopListening_follows (c : Cfg) : Follows c (.op .stopListening) (stopListeningBody c) Reply.byte :=
  Follows.intro fun _ _ =>
    Spec.bind (At.action (a := .ceLow) (L' := fun _ _ => True) rfl (fun _ _ _ _ => rfl) (fun _ => ⟨rfl, rfl⟩)
      fun _ _ _ => trivial) fun _ =>
    Spec.mono (At.sub (L' := fun _ => True) (flushRx_follows c) (fun _ _ _ _ => rfl) fun _ _ _ => trivial) (fun _ h => h)
      (fun _ _ h => h.leave (fun _ => rfl) fun _ _ _ _ => rfl) fun _ _ h => h

theorem pollReceived_follows (c : Cfg) :
    Follows c (.op .pollReceived) (pollReceivedBody c) fun b => Reply.byte (flagBit b 0) :=
  Follows.intro fun _ _ =>
    Spec.bind (At.sub (L' := fun _ => True) (writeCommand_follows c _) (fun _ _ hc _ => by rw [← hc]; rfl)
      fun _ _ _ => trivial) fun _ =>
    Spec.pure fun _ h => h.leave (fun _ => rfl) fun _ _ hc _ => by rw [← hc]; rfl

/-! Init. -/

/-- A mismatch is recorded where a validated write has returned (41_transceiver_config.md R161). -/
theorem takenIn_init {j : Nat} (q : Reply) (l : Locals) (h : mismatchBit (k - baselineActions) = some j) :
    takenIn (.op .init) k q l = { l with rc := l.rc ||| flagBit (decide (q.outcome = .fail)) j } := by
  unfold takenIn; rw [h]

/-- Elsewhere nothing is. -/
theorem takenIn_init_none (q : Reply) (l : Locals) (h : mismatchBit (k - baselineActions) = none) :
    takenIn (.op .init) k q l = l := by
  unfold takenIn; rw [h]

theorem readBaseline_follows (n j : Nat) (h : j + n ≤ 30) :
    Spec (At u c (.op .init) cs (2 * j) none fun _ _ => True) (readBaseline ((List.range' j n).map (BitVec.ofNat 8)))
      (fun _ => At u c (.op .init) cs (2 * (j + n)) none fun _ _ => True) (Stopped u) := by
  induction n generalizing j with
  | zero => exact Spec.pure fun _ h => h
  | succ n ih =>
    have hb : baselineActions = 60 := rfl
    refine Spec.bind (At.sub (L' := fun _ => True) (readRegister_follows c _) (fun s l _ _ => ?_) fun _ _ _ => trivial)
      fun _ => Spec.back (L := fun _ _ => True) (fun l => ?_) (fun _ _ _ => trivial) <|
      Spec.bind (At.internal (g := State.cachedShifted (BitVec.ofNat 8 j)) (L' := fun _ _ => True) (fun s l _ _ => ?_)
        (fun _ _ _ _ => rfl) (fun _ => ⟨rfl, rfl⟩) fun _ _ _ => trivial) fun _ => ?_
    · have h1 : 2 * j < 60 := by omega
      simp [plan, hb, h1]
    · exact takenIn_init_none _ _ (by rw [hb, show 2 * j + 1 - 60 = 0 by omega]; rfl)
    · have h1 : 2 * j + 1 < 60 := by omega
      have h2 : (2 * j + 1) % 2 = 1 := by omega
      have h3 : (2 * j + 1) / 2 = j := by omega
      simp [plan, hb, h1, h2, h3]
    · rw [show 2 * (j + (n + 1)) = 2 * (j + 1 + n) by omega]
      exact ih (j + 1) (by omega)

theorem configure_follows {i j : Nat} {a d : Byte} (hk : k = baselineActions + i) (hj : mismatchBit (i + 1) = some j)
    (hp : ∀ rc, initNext c rc i = .enter (.op (.writeValidated a d))) :
    Spec (At u c (.op .init) cs k r fun _ _ => True) (configure j a d)
      (fun _ s => ∃ q, At u c (.op .init) cs (k + 1) (some q) (fun _ _ => True) s) (Stopped u) := by
  have h1 : ¬ k < baselineActions := by omega
  have h2 : k - baselineActions = i := by omega
  have h3 : k + 1 - baselineActions = i + 1 := by omega
  refine Spec.bind (At.sub (L' := fun _ => True) (writeValidated_follows c a d) (fun s l hc _ => ?_) fun _ _ _ => trivial)
    fun f s hs => ⟨_, At.of_back (f := fun l => { l with rc := l.rc ||| flagBit f j }) hs (fun l hl => ?_)
      (fun _ _ _ => trivial) fun _ h => h⟩
  · simp only [plan, h1, if_false, h2, hc]; exact hp _
  · rw [takenIn_init _ _ (by rw [h3]; exact hj)]
    cases l; cases hl; cases f <;> rfl

/-- The transmit address as an operand of the burst write (41_transceiver_config.md R161). -/
theorem payload_bufferOf {l : List Byte} (h : l.length = Config.addrLen) :
    payload (BitVec.ofNat 8 Config.addrLen) (bufferOf l) = l := by
  unfold payload bufferOf requestBuffer
  rw [List.take_take, show min (BitVec.ofNat 8 Config.addrLen).toNat Config.fifoMax = l.length by rw [h]; rfl]
  exact List.take_left' rfl

theorem init_follows (c : Cfg) : Follows c (.op .init) (initBody c) Reply.resultCode := by
  refine Follows.intro fun _ _ => Spec.mono (P := At _ c (.op .init) _ 0 none fun _ _ => True) ?_
    (fun s ⟨l, h1, h2, _, h4⟩ => ⟨l, h1, h2, trivial, h4⟩) (fun _ _ h => h) fun _ _ h => h
  refine Spec.bind (readBaseline_follows 30 0 (by omega)) fun _ => ?_
  refine Spec.bind (configure_follows (i := 0) rfl rfl fun _ => rfl) fun _ => Spec.exists fun _ => ?_
  refine Spec.bind (At.waitUs (L' := fun _ => True) (fun _ _ hc _ => by rw [← hc]; rfl) fun _ _ _ => trivial) fun _ => ?_
  refine Spec.bind (configure_follows (i := 2) rfl rfl fun _ => rfl) fun _ => Spec.exists fun _ => ?_
  refine Spec.bind (configure_follows (i := 3) rfl rfl fun _ => rfl) fun _ => Spec.exists fun _ => ?_
  refine Spec.bind (configure_follows (i := 4) rfl rfl fun _ => rfl) fun _ => Spec.exists fun _ => ?_
  refine Spec.bind (configure_follows (i := 5) rfl rfl fun _ => rfl) fun _ => Spec.exists fun _ => ?_
  refine Spec.bind (configure_follows (i := 6) rfl rfl fun _ => rfl) fun _ => Spec.exists fun _ => ?_
  refine Spec.bind (At.sub (L' := fun _ => True) (writeRegisterBurst_follows c _ _ _ _ (payload_bufferOf (by simp)))
    (fun _ _ hc _ => by rw [← hc]; rfl) fun _ _ _ => trivial) fun _ => ?_
  refine Spec.back (L := fun _ _ => True) (fun _ => rfl) (fun _ _ _ => trivial) ?_
  refine Spec.bind (configure_follows (i := 8) rfl rfl fun _ => rfl) fun _ => Spec.exists fun _ => ?_
  refine Spec.bind (At.internal (g := State.nowInitialised) (L' := fun _ _ => True) (fun _ _ _ _ => rfl)
    (fun _ _ _ _ => rfl) (fun _ => ⟨rfl, rfl⟩) fun _ _ _ => trivial) fun _ => ?_
  exact fun s hs => by
    obtain ⟨l, h1, h2, _, h4, h5⟩ := hs
    show Done _ c _ (Reply.resultCode (topLocals s.seq).rc) s
    rw [h1]
    exact At.leave (L := fun l' _ => l' = l) ⟨l, h1, h2, rfl, h4, h5⟩ fun _ _ _ h => by rw [h]; rfl

/-! The host. -/

theorem boot_follows (c : Cfg) : Follows c (.op .boot) (bootBody c) Reply.byte := by
  refine Follows.intro fun _ _ =>
    Spec.bind (At.internal (g := State.boardInitialised) (L' := fun _ _ => True) (fun _ _ _ _ => rfl)
      (fun _ _ _ _ => rfl) (fun _ => ⟨rfl, rfl⟩) fun _ _ _ => trivial) fun _ =>
    Spec.bind (At.sub (L' := fun _ => True) (init_follows c) (fun _ _ _ _ => rfl) fun _ _ _ => trivial) fun rc =>
    Spec.bind (Spec.note (L := fun l _ => l.rc = rc) (fun l hl => by cases l; cases hl; rfl)
      (fun _ h => h) fun _ _ _ => rfl) fun _ => ?_
  by_cases h : c.role = .parent
  · rw [if_pos h]
    exact Spec.bind (At.sub (L' := fun l => l.rc = rc) (startListening_follows c)
        (fun s l hc _ => by simp [plan, hc, h]) fun _ _ h => h) fun _ =>
      Spec.back (L := fun l _ => l.rc = rc) (fun _ => rfl) (fun _ _ h => h) <|
      Spec.bind (At.internal (g := State.armed) (L' := fun l _ => l.rc = rc) (fun s l hc _ => by simp [plan, hc, h])
        (fun _ _ _ _ => rfl) (fun _ => ⟨rfl, rfl⟩) fun _ _ h => h) fun _ =>
      Spec.pure fun _ hs => hs.leave fun s l hc hl => by simp [plan, hc, h, hl]
  · rw [if_neg h]
    exact Spec.bind (At.internal (g := State.armed) (L' := fun l _ => l.rc = rc) (fun s l hc _ => by simp [plan, hc, h])
        (fun _ _ _ _ => rfl) (fun _ => ⟨rfl, rfl⟩) fun _ _ h => h) fun _ =>
      Spec.pure fun _ hs => hs.leave fun s l hc hl => by simp [plan, hc, h, hl]

theorem At.sound {p : AlertPattern} (hp : ∀ s l, s.cfg = c → L l s →
      plan s ⟨t, k, { l with result := r }⟩ = .act (.internal (State.alerted p)))
    {L' : Locals → State → Prop} (hL : ∀ l s, L l s → L' l (s.alerted p).advanced) :
    Spec (At u c t cs k r L) (soundAlert p) (fun _ => At u c t cs (k + 1) none L') (Stopped u) :=
  At.internal (g := State.alerted p) hp (fun _ _ _ _ => rfl) (fun _ => ⟨rfl, rfl⟩) hL

/-- The evaluation that ends a tick (44_telemetry_loop.md R235). -/
theorem At.evaluate {v : Reading}
    (hp : ∀ s l, s.cfg = c → L l s → plan s ⟨t, k, { l with result := r }⟩ = evaluateNext v)
    (he : ∀ s l, s.cfg = c → plan s ⟨t, k + 1, l⟩ = .leave Reply.plain) :
    Spec (At u c t cs k r L) (Machine.evaluate v) (fun _ => Done u c cs Reply.plain) (Stopped u) := by
  unfold Machine.evaluate
  by_cases h : Config.threshold ≤ v.toNat
  · rw [if_pos h]
    exact Spec.mono (At.sound (L' := fun _ _ => True) (fun s l hc hL => by rw [hp s l hc hL, evaluateNext, if_pos h])
      fun _ _ _ => trivial) (fun _ h => h) (fun _ _ hs => hs.leave fun s l hc _ => he s _ hc) fun _ _ h => h
  · rw [if_neg h]
    exact Spec.pure fun _ hs => hs.leave fun s l hc hL => by rw [hp s l hc hL, evaluateNext, if_neg h]

theorem sampleSensor_follows (hp : ∀ s l, s.cfg = c → L l s → plan s ⟨t, k, { l with result := r }⟩ = .act .sample) :
    Spec (At u c t cs k r L) sampleSensor (fun v => At u c t cs (k + 1) none fun l _ => l.reading = v) (Stopped u) :=
  At.act (a := .sample) (fun _ => rfl) hp fun s l hs hl _ hc =>
    ⟨hc, { l with reading := s.nextReading }, by simp [State.withTop, hs, advance, mapTop], hl, rfl⟩

theorem childTick_follows (c : Cfg) : Follows c (.op .childTick) (childTickBody c) fun _ => Reply.plain := by
  refine Follows.intro fun _ _ => At.read fun s => ?_
  by_cases h : s.tickdiv + 1 = c.childDiv
  · rw [if_pos h]
    refine Spec.bind (At.internal (f := State.withTickdiv 0) (g := fun s => s.withTickdiv (if s.tickdiv + 1 = s.cfg.childDiv then 0 else s.tickdiv + 1))
        (L' := fun _ t => t.tickdiv = 0) (fun _ l _ hl => by cases hl.1; rfl)
        (fun t _ hc ht => by simp only [ht.2, ← hc] at h ⊢; simp only [h, if_true])
        (fun _ => ⟨rfl, rfl⟩) fun _ _ _ => rfl) fun _ => ?_
    refine Spec.bind (sampleSensor_follows fun t l _ ht => by simp [plan, ht]) fun v => ?_
    refine Spec.bind (At.sub (L' := fun l => l.reading = v) (send_follows c _ _)
      (fun t l hc hl => by rw [← hc, ← hl]; rfl) fun _ _ h => h) fun _ => ?_
    exact Spec.back (L := fun l _ => l.reading = v) (fun _ => rfl) (fun _ _ h => h) <|
      At.evaluate (fun t l _ hl => by rw [← hl]; rfl) fun _ _ _ => rfl
  · rw [if_neg h]
    exact Spec.mono
      (At.internal (f := State.withTickdiv (s.tickdiv + 1)) (g := fun s => s.withTickdiv (if s.tickdiv + 1 = s.cfg.childDiv then 0 else s.tickdiv + 1))
        (L' := fun _ t => t.tickdiv ≠ 0) (fun _ l _ hl => by cases hl.1; rfl)
        (fun t _ hc ht => by simp only [ht.2, ← hc] at h ⊢; simp only [h, if_false]) (fun _ => ⟨rfl, rfl⟩)
        fun _ _ _ => Nat.succ_ne_zero _) (fun _ h => h)
      (fun _ _ hs => hs.leave fun t l _ ht => by simp [plan, ht]) fun _ _ h => h

theorem countTick_follows (h0 : ∀ l s, L l s → l = Locals.start) : Spec (At u c (.op .parentTick) cs 0 none L) countTick
    (fun _ => At u c (.op .parentTick) cs 3 none fun _ _ => True) (Stopped u) := by
  refine At.read fun s => ?_
  refine Spec.bind
    (At.internal (f := State.withCountdown (s.countdown - 1)) (g := fun s => s.withCountdown (s.countdown - 1)) (L' := fun _ t => t.countdown = s.countdown - 1)
      (fun _ l s hl => by cases h0 _ _ hl.1; rfl) (fun t _ _ ht => by rw [ht.2]) (fun _ => ⟨rfl, rfl⟩) fun _ t _ => rfl)
      fun _ => ?_
  by_cases h : s.countdown - 1 = 0
  · rw [if_pos h]
    exact Spec.bind (At.sound (L' := fun _ _ => True) (fun t l _ ht => by simp [plan, ht, h]) fun _ _ _ => trivial) fun _ =>
      At.internal (g := State.withCountdown Config.linkMax) (fun _ _ _ _ => rfl) (fun _ _ _ _ => rfl)
        (fun _ => ⟨rfl, rfl⟩) fun _ _ _ => trivial
  · rw [if_neg h]
    exact At.skip (fun t l _ ht => by simp [plan, ht, h]) fun _ _ _ _ => trivial

theorem parentTick_follows (c : Cfg) : Follows c (.op .parentTick) (parentTickBody c) fun _ => Reply.plain := by
  refine Follows.intro fun _ _ => Spec.bind (countTick_follows fun _ _ h => h) fun _ =>
    Spec.bind (At.sub (L' := fun _ => True) (pollReceived_follows c) (fun _ _ _ _ => rfl) fun _ _ _ => trivial) fun b => ?_
  cases b
  · exact Spec.pure fun _ h => h.leave (fun _ => rfl) fun _ _ _ _ => rfl
  · exact Spec.back (L := fun _ _ => True) (fun _ => rfl) (fun _ _ _ => trivial) <|
      Spec.bind (At.sub (L' := fun _ => True) (readFifo_follows c _) (fun _ _ _ _ => rfl) fun _ _ _ => trivial) fun bytes =>
      Spec.bind (Spec.note (L := fun l _ => l.buf = bytes) (fun l hl => by cases l; cases hl; rfl) (fun _ h => h)
        fun _ _ _ => rfl) fun _ =>
      Spec.bind (At.sub (L' := fun l => l.buf = bytes) (stopListening_follows c) (fun _ _ _ _ => rfl) fun _ _ h => h) fun _ =>
      Spec.back (L := fun l _ => l.buf = bytes) (fun _ => rfl) (fun _ _ h => h) <|
      Spec.bind (At.sub (L' := fun l => l.buf = bytes) (startListening_follows c) (fun _ _ _ _ => rfl) fun _ _ h => h) fun _ =>
      Spec.back (L := fun l _ => l.buf = bytes) (fun _ => rfl) (fun _ _ h => h) <|
      Spec.bind (At.internal (g := State.withCountdown Config.linkMax) (L' := fun l _ => l.buf = bytes) (fun _ _ _ _ => rfl)
        (fun _ _ _ _ => rfl) (fun _ => ⟨rfl, rfl⟩) fun _ _ h => h) fun _ =>
      At.evaluate (fun _ _ hc hl => by rw [← hc, ← hl]; rfl) fun _ _ _ => rfl

theorem getMode_follows (c : Cfg) : Follows c (.op .getMode)
    (do let t ← get; return Reply.byte (engineMode c (t.cached c.regConfig) t.ce).code) id :=
  Follows.intro fun _ _ => At.read fun _ => Spec.pure fun _ h => h.leave fun _ _ hc ht => by rw [← ht.2, ← hc]; rfl

/-! Requests. -/

/-- What an operation returns, put in a response. -/
theorem Follows.map {m : Eng α} {f : α → Reply} (h : Follows c t m f) : Follows c t (m >>= fun a => pure (f a)) id := by
  intro u s hc hr
  have := h u s hc hr
  revert this
  rw [call_run, call_run, EStateM.run_bind]
  cases m.run (s.entering t) <;> exact fun h => h

/-- An accepted request is a run of single steps of the engine: to its return, or to its wait (00_scope.md R12). -/
theorem serve_follows {m : Eng Reply} {s : State} (h : Follows s.cfg t m id) (hs : s.seq = []) :
    ∃ n, serve t m s = .next (acts n (accepted t s)) ∧ (∀ i < n, (acts i (accepted t s)).seq ≠ []) ∧
      ((acts n (accepted t s)).seq = [] ∨ ∃ w, Halted w (acts n (accepted t s))) := by
  have := h (accepted t s) s.unanswered rfl (Reach.refl _)
  unfold serve
  rw [if_neg (by simp [hs])]
  revert this
  cases (call t m).run s.unanswered with
  | ok r v =>
    rintro ⟨⟨n, h1, h2⟩, h3, _⟩
    have hv : v.seq = [] := by rw [h3]; show advance s.seq = []; rw [hs]; rfl
    have hd : v.deliver r = finishOperation r v := by unfold State.deliver; rw [hv]
    exact ⟨n, by rw [h1]; exact congrArg _ hd.symm, h2, .inl (by rw [h1]; show (v.deliver r).seq = []; rw [hd]; exact hv)⟩
  | error w v =>
    rintro ⟨⟨n, h1, h2⟩, h3⟩
    exact ⟨n, by rw [h1]; rfl, h2, .inr ⟨w, by rw [h1]; exact h3⟩⟩

/-- The same with the checks of the request passed. -/
theorem serve_guarded_follows {m : Eng Reply} {why : State → Option RefuseReason} {s : State} (h : Follows s.cfg t m id)
    (hs : s.seq = []) (hw : why (accepted t s) = none) :
    ∃ n, serve t (guarded why m) s = .next (acts n (accepted t s)) ∧ (∀ i < n, (acts i (accepted t s)).seq ≠ []) ∧
      ((acts n (accepted t s)).seq = [] ∨ ∃ w, Halted w (acts n (accepted t s))) := by
  have : serve t (guarded why m) s = serve t m s := by
    unfold serve
    rw [call_run, call_run, guarded_run, show why (s.unanswered.entering t) = none from hw]; rfl
  rw [this]; exact serve_follows h hs

/-! Resumed rounds. -/

/-- The state with the sequencer at the positions given. -/
def State.standing (q : List Position) (s : State) : State := { s with seq := q }

/-- A whole operation returns. -/
theorem deliver_last {v : State} {q : Position} (r : Reply) (h : v.seq = [q]) :
    v.leaving.deliver r = finishOperation r (v.standing []) := by
  unfold State.leaving State.deliver; rw [h]; rfl

/-- A sub-operation returns to its caller. -/
theorem deliver_caller {v : State} {q : Position} {t : Task} {k : Nat} {l : Locals} {cs : List Position} (r : Reply)
    (h : v.seq = q :: ⟨t, k, l⟩ :: cs) :
    v.leaving.deliver r = v.standing (⟨t, k + 1, { l with result := some r }⟩ :: cs) := by
  unfold State.leaving State.deliver; rw [h]; rfl

/-- Send returns once End has (42_packet_io.md R195). -/
theorem act_send (v : State) {n : Byte} {buf : List Byte} {l : Locals} {cs : List Position} (h : l.result = none) (r : Reply) :
    act (v.standing (⟨.op (.send n buf), 2 + 1, { l with result := some r }⟩ :: cs)) =
      (v.standing (⟨.op (.send n buf), 3, l⟩ :: cs)).leaving.deliver Reply.plain := by
  cases l; cases h; rfl

/-- The Child's tick evaluates its reading once Send has returned (44_telemetry_loop.md R236). -/
theorem reach_tick {u v : State} {l : Locals} (h : l.result = none) {r : Reply}
    (hv : Reach u (v.standing [⟨.op .childTick, 2 + 1, { l with result := some r }⟩])) :
    Reach u (finishOperation Reply.plain ((after ((evaluate l.reading).run v)).standing [])) := by
  have h1 := hv.step (by simp [State.standing])
  have ha : act (v.standing [⟨.op .childTick, 2 + 1, { l with result := some r }⟩]) =
      perform (v.standing [⟨.op .childTick, 3, l⟩]) (evaluateNext l.reading) := by
    cases l; cases h; rfl
  rw [ha] at h1
  unfold evaluate
  by_cases ht : Config.threshold ≤ l.reading.toNat
  · rw [evaluateNext, if_pos ht] at h1
    rw [if_pos ht]
    have h2 := h1.step (by simp [perform, Action.run, after, State.standing, advance])
    cases l; cases h
    exact h2
  · rw [evaluateNext, if_neg ht] at h1
    rw [if_neg ht]
    exact h1

/-- A round of the poll of End that a step runs whole is a run of single steps (00_scope.md R12), and so are the returns
into the callers. -/
theorem resume_follows {s : State} (h : PollingStack s.seq) :
    ∃ n, resume s = acts n s ∧ (∀ i < n, (acts i s).seq ≠ []) := by
  suffices hr : Reach s (resume s) by obtain ⟨n, h1, h2⟩ := hr; exact ⟨n, h1.symm, h2⟩
  obtain ⟨ht, hk, hres⟩ := h
  obtain ⟨p, cs, hs⟩ : ∃ p cs, s.seq = p :: cs := by
    cases hq : s.seq with
    | nil => rw [hq] at ht; rcases ht with h | ⟨_, _, h⟩ | ⟨_, _, h⟩ <;> cases h
    | cons p cs => exact ⟨p, cs, rfl⟩
  have hp : p.task = .op .endSend := by
    rw [hs] at ht; rcases ht with h | ⟨_, _, h⟩ | ⟨_, _, h⟩ <;> exact (List.cons.inj h).1
  have hk0 : p.k = 0 := by rw [hs] at hk; exact (List.cons.inj hk).1
  have hr0 : p.loc.result = none := hres p (by simp [hs])
  have hpolls : p.polls = true := by simp [Position.polls, hp, hk0, hr0]
  have hp' : s.seq = ⟨.op .endSend, 0, p.loc⟩ :: cs := by rw [hs, ← hp, ← hk0]
  have hround := endBody_follows s.cfg s (At.of_reach (L := fun _ _ => True) hp' hr0 trivial rfl (Reach.refl s))
  rw [resume, hs, resumeAt, if_pos hpolls]
  revert hround
  cases (endBody s.cfg).run s with
  | error w v => exact fun h => h.1
  | ok st v =>
    rintro ⟨q, hq, _, hv⟩
    rw [hs] at ht hk hres
    rcases ht with h | ⟨n, buf, h⟩ | ⟨n, buf, h⟩
    · obtain rfl : cs = [] := by simpa [hp] using h
      rw [deliver_last _ hq] at hv; exact hv
    · obtain ⟨⟨_, k1, l1⟩, rfl, ht1⟩ : ∃ p1, cs = [p1] ∧ p1.task = .op (.send n buf) := by simpa [hp] using h
      obtain rfl : k1 = 2 := by simpa [hk0] using hk
      cases ht1
      rw [deliver_caller _ hq] at hv
      have h2 := hv.step (by simp [State.standing])
      rw [act_send v (hres ⟨.op (.send n buf), 2, l1⟩ (by simp)), deliver_last _ rfl] at h2
      exact h2
    · obtain ⟨⟨_, k1, l1⟩, ⟨_, k2, l2⟩, rfl, ht1, ht2⟩ :
          ∃ p1 p2, cs = [p1, p2] ∧ p1.task = .op (.send n buf) ∧ p2.task = .op .childTick := by
        rcases cs with _ | ⟨p1, _ | ⟨p2, _ | ⟨p3, cs⟩⟩⟩
        · simp at h
        · simp at h
        · exact ⟨p1, p2, rfl, by simpa [hp] using h⟩
        · simp at h
      obtain ⟨rfl, rfl⟩ : k1 = 2 ∧ k2 = 2 := by simpa [hk0] using hk
      cases ht1; cases ht2
      rw [deliver_caller _ hq] at hv
      have h2 := hv.step (by simp [State.standing])
      rw [act_send v (hres ⟨.op (.send n buf), 2, l1⟩ (by simp)), deliver_caller _ rfl] at h2
      have h3 := reach_tick (v := v.standing _) (hres ⟨.op .childTick, 2, l2⟩ (by simp)) h2
      refine Eq.mp (congrArg (Reach s) ?_) h3
      show _ = finishOperation Reply.plain { after ((evaluate l2.reading).run v) with seq := [] }
      unfold evaluate
      by_cases ht : Config.threshold ≤ l2.reading.toNat
      · rw [if_pos ht]; rfl
      · rw [if_neg ht]; rfl

/-! Single steps in any state. -/

/-- The action changes no configuration input and undoes no initialisation. -/
def Action.Mild : Action → Prop
  | .internal f => ∀ t, (f t).cfg = t.cfg ∧ (t.initialised = true → (f t).initialised = true)
  | .csnAssert => True
  | .csnDeassert => True
  | .xchg _ _ => True
  | .xchgKept _ _ => True
  | .ceHigh => True
  | .ceLow => True
  | .wait _ => True
  | .sample => True

/-- What comes next changes no configuration input and undoes no initialisation. -/
def Next.Mild : Next → Prop
  | .act a => a.Mild
  | .enter _ => True
  | .goTo _ => True
  | .leave _ => True

theorem actionAt_mild {l : List Action} (h : ∀ a ∈ l, a.Mild) (q : Reply) (k : Nat) : (actionAt l q k).Mild := by
  unfold actionAt
  cases hk : l[k]? with
  | none => trivial
  | some a => exact h a (List.mem_of_getElem? hk)

theorem frameActions_mild (shown : Bool) (op : Byte) (l : List Byte) : ∀ a ∈ frameActions shown op l, a.Mild := by
  intro a h
  simp only [frameActions, List.mem_append, List.mem_cons, List.mem_map, List.not_mem_nil, or_false] at h
  rcases h with (rfl | rfl | ⟨_, _, rfl⟩) | rfl <;> trivial

theorem fifoActions_mild (n : Byte) (shown : Bool) (op : Byte) (l : List Byte) : ∀ a ∈ fifoActions n shown op l, a.Mild := by
  unfold fifoActions; split
  · simp
  · exact frameActions_mild _ _ _

theorem evaluateNext_mild (v : Reading) : (evaluateNext v).Mild := by
  unfold evaluateNext; split
  · exact fun _ => ⟨rfl, id⟩
  · trivial

theorem plan_mild (s : State) (p : Position) : (plan s p).Mild := by
  obtain ⟨t, k, l⟩ := p
  rcases t with i | bytes
  · cases i
    case readRegister a => exact actionAt_mild (by simp [readActions, Action.Mild]) _ _
    case writeRegister a d => exact actionAt_mild (by simp [writeActions, Action.Mild]) _ _
    case writeCommand d => exact actionAt_mild (frameActions_mild _ _ _) _ _
    case writeRegisterBurst a n buf => exact actionAt_mild (frameActions_mild _ _ _) _ _
    case initiate => exact actionAt_mild (by simp [Action.Mild]) _ _
    case writeFifo n buf => exact actionAt_mild (fifoActions_mild _ _ _ _) _ _
    case readFifo n => exact actionAt_mild (fifoActions_mild _ _ _ _) _ _
    case init =>
      simp only [plan]
      split
      · split
        · trivial
        · exact fun _ => ⟨rfl, id⟩
      · generalize k - baselineActions = j
        unfold initNext
        split <;> first | trivial | exact fun _ => ⟨rfl, fun _ => rfl⟩
    all_goals
      simp only [plan]
      repeat' split
      all_goals first | trivial | exact evaluateNext_mild _ | exact fun _ => ⟨rfl, id⟩
  · refine actionAt_mild (fun a h => ?_) _ _
    simp only [rawActions, List.mem_append, List.mem_cons, List.mem_map, List.not_mem_nil, or_false] at h
    rcases h with (rfl | ⟨_, _, rfl⟩) | rfl <;> trivial

/-- A mild action run whole keeps the configuration and the initialisation. -/
theorem Action.run_mild {a : Action} (h : a.Mild) (s : State) :
    (after (a.run.run s)).cfg = s.cfg ∧ (s.initialised = true → (after (a.run.run s)).initialised = true) := by
  cases a with
  | csnAssert => exact ⟨gap_cfg s, fun hi => (gap_initialised s).trans hi⟩
  | csnDeassert => exact ⟨gap_cfg s, fun hi => (gap_initialised s).trans hi⟩
  | ceHigh =>
    refine ⟨(raised_seq_cfg (gap s)).2.trans (gap_cfg s), fun hi => ?_⟩
    show (gap s).raised.initialised = true
    unfold State.raised State.raisedFrom
    split <;> exact (gap_initialised s).trans hi
  | ceLow => exact ⟨gap_cfg s, fun hi => (gap_initialised s).trans hi⟩
  | wait us => exact ⟨gap_cfg s, fun hi => (gap_initialised s).trans hi⟩
  | internal f => exact h s
  | sample => exact ⟨rfl, id⟩
  | xchg shown out =>
    simp only [Action.run, EStateM.run_bind, xchg_run_eq]
    by_cases h0 : s.port.left = some 0
    · simp only [h0, if_true]; exact ⟨gap_cfg s, fun hi => (gap_initialised s).trans hi⟩
    · simp only [h0, if_false]; exact ⟨gap_cfg s, fun hi => (gap_initialised s).trans hi⟩
  | xchgKept shown out =>
    simp only [Action.run, Machine.xchgKept, EStateM.run_bind, xchg_run_eq]
    by_cases h0 : s.port.left = some 0
    · simp only [h0, if_true]; exact ⟨gap_cfg s, fun hi => (gap_initialised s).trans hi⟩
    · simp only [h0, if_false]; exact ⟨gap_cfg s, fun hi => (gap_initialised s).trans hi⟩

theorem perform_mild {s : State} {n : Next} (h : n.Mild) :
    (perform s n).cfg = s.cfg ∧ (s.initialised = true → (perform s n).initialised = true) := by
  cases n with
  | act a => exact Action.run_mild h s
  | enter t => exact ⟨rfl, id⟩
  | goTo k => exact ⟨rfl, id⟩
  | leave r =>
    show (s.leaving.deliver r).cfg = _ ∧ (_ → (s.leaving.deliver r).initialised = true)
    unfold State.deliver
    split <;> exact ⟨rfl, id⟩

/-- A single step changes no configuration input and undoes no initialisation (10_state.md R22, R45). -/
theorem act_mild (s : State) : (act s).cfg = s.cfg ∧ (s.initialised = true → (act s).initialised = true) := by
  unfold act
  split
  · exact ⟨rfl, id⟩
  · exact perform_mild (s := s.withTop Position.taken) (plan_mild _ _)

/-- A step that exchanges nothing new: an exchange next, and none that completes. -/
theorem perform_stuck {s : State} {n : Next} {out : Byte} (hn : n.out = some out) (h : s.port.left = some 0) :
    perform s n = (gap s).shifting out := by
  cases n with
  | act a =>
    cases a with
    | xchg shown b =>
      cases hn
      show after ((Machine.xchg shown _ >>= fun _ => pure ()).run s) = _
      rw [EStateM.run_bind, xchg_run_eq, if_pos h]; rfl
    | xchgKept shown b =>
      cases hn
      show after (((Machine.xchg shown _ >>= fun v => noteLocals _ >>= fun _ => pure v) >>= fun _ => pure ()).run s) = _
      rw [EStateM.run_bind, EStateM.run_bind, xchg_run_eq, if_pos h]; rfl
    | csnAssert => cases hn
    | csnDeassert => cases hn
    | ceHigh => cases hn
    | ceLow => cases hn
    | wait us => cases hn
    | internal f => cases hn
    | sample => cases hn
  | enter t => cases hn
  | goTo k => cases hn
  | leave r => cases hn

/-- Whether an exchange is next does not depend on what the other agents change. -/
theorem plan_gap (s : State) (p : Position) : (plan (gap s) p).out = (plan s p).out := by
  obtain ⟨t, k, l⟩ := p
  rcases t with i | bytes
  · cases i
    case setModeBit m => simp only [plan]; split <;> rfl
    all_goals simp only [plan, gap_cfg, gap_port, gap_ce, gap_countdown, gap_tickdiv, State.cached, gap_cache, startRefusal,
      cacheRefusal, State.notInitialised, State.enableHigh, gap_initialised]
  · rfl

/-- An exchange that does not complete goes on waiting (40_register_interface.md R120): the other agents step, and nothing
else happens. -/
theorem act_shift {s : State} (h : Halted .shift s) : act s = gap s ∧ Halted .shift (act s) := by
  obtain ⟨hl, hc, he⟩ := h
  have ha : act s = gap s := by
    unfold exchanging at he
    unfold act
    cases hs : s.seq with
    | nil => rw [hs] at he; cases he
    | cons p cs =>
      simp only [hs] at he ⊢
      by_cases hr : p.loc.result = none
      · rw [if_pos hr] at he
        have ht : p.taken = p := by simp [Position.taken, hr]
        have hw : s.withTop Position.taken = s := by
          unfold State.withTop; rw [hs]; simp only [mapTop, ht]; rw [← hs]
        have hn : nextAt s p = plan s p := by
          unfold nextAt; rw [ht]
        rw [hw, hn, perform_stuck he hl, State.shifting, ← gap_port s]
        rw [← gap_port s] at hc
        rw [show ({ (gap s).port with shiftOut := (gap s).port.shiftOut, shiftComplete := false } : SerialPort) =
          (gap s).port by rw [← hc]]
      · rw [if_neg hr] at he; cases he
  rw [ha]
  refine ⟨rfl, by simpa using hl, by simpa using hc, ?_⟩
  unfold exchanging at he ⊢
  rw [gap_seq]
  cases hs : s.seq with
  | nil => rw [hs] at he; cases he
  | cons p cs => simpa only [hs, plan_gap, gap_port] using he

end

/-! Waiting for ever. -/

/-- A request presented to an engine that is not idle is refused, and nothing else changes (30_encoding.md R103). -/
theorem exec_busy (i : Instr) {s : State} (h : s.seq ≠ []) (hf : s.dev.fault = none) :
    exec i s = .next (refuse .busy s) := by
  have hs (t : Task) (m : Eng Reply) : serve t m s = .next (refuse .busy s) := if_pos h
  have hd (t : Task) (m : Eng Reply) : stopOnDeviceFault (serve t m s) = .next (refuse .busy s) := by
    rw [hs]; simp only [stopOnDeviceFault, refuse, faultOr, hf]
  cases i <;> first | exact hs _ _ | exact hd _ _

/-- The operation under way waits in an exchange, so the engine is not idle. -/
theorem Halted.busy {s : State} (h : Halted .shift s) : s.seq ≠ [] := by
  intro hs
  have := h.2.2
  rw [exchanging, hs] at this
  cases this

/-- A step of a node whose exchange does not complete (40_register_interface.md R120, R131): a next state in which the same
exchange goes on waiting. -/
theorem step_halted {s : State} (h : Halted .shift s) (hf : s.dev.fault = none) :
    ∃ t, step s = .next t ∧ Halted .shift t ∧ t.dev.fault = none := by
  have hb := h.busy
  rw [step, hf]
  cases hi : s.inbox with
  | none =>
    refine ⟨act s, ?_, (act_shift h).2, by rw [(act_shift h).1]; simpa using hf⟩
    have he := h.2.2
    cases hs : s.seq with
    | nil => exact absurd hs hb
    | cons p cs =>
      have hp : p.polls = false := by
        refine decide_eq_false fun ⟨ht, hk, _⟩ => ?_
        have : plan s p = .enter (.op (.writeCommand s.cfg.opcNop)) := by rw [plan, ht, hk]; rfl
        rw [exchanging, hs] at he
        simp only [this, Next.out, ite_self, reduceCtorEq] at he
      rw [serveInbox, resume, hs, resumeAt, hp]
      rfl
  | some b =>
    have hk (why : RefuseReason) :
        Halted .shift (refuse why (fetched s)) ∧ (refuse why (fetched s)).dev.fault = none := ⟨h, hf⟩
    rw [serveInbox]
    cases decode s.cfg.toOpcodes b with
    | ok i => exact ⟨_, exec_busy i hb hf, hk _⟩
    | error e =>
      cases b with
      | request l => exact ⟨_, rfl, hk _⟩
      | frame l =>
        have hr : runFrame l (fetched s) = .next (refuse .busy (fetched s)) := by
          unfold runFrame
          rw [serve, if_pos (by exact hb)]
          simp only [stopOnDeviceFault, refuse, faultOr, fetched, hf]
        cases e with
        | emptyFrame => exact ⟨_, rfl, h, hf⟩
        | unknownOp _ => exact ⟨_, rfl, h, hf⟩
        | badOpcode _ => exact ⟨_, hr, hk _⟩
        | frameTooLong _ => exact ⟨_, hr, hk _⟩

/-- An engine that is not idle, and of which a property says so that every step keeps, never returns
(60_exceptions.md R293). -/
theorem hangs_of {I : State → Prop} (hb : ∀ s, I s → s.seq ≠ []) (hk : ∀ s, I s → ∃ t, step s = .next t ∧ I t) {s : State}
    (h : I s) : Hangs s := by
  choose f hf using hk
  let run : Nat → { s : State // I s } := fun n => Nat.rec ⟨s, h⟩ (fun _ u => ⟨f u.1 u.2, (hf u.1 u.2).2⟩) n
  exact ⟨fun n => (run n).1, rfl, fun n => ⟨hb _ (run n).2, (hf (run n).1 (run n).2).1⟩⟩

end Sys2Proof.Machine
end

