-- ==== Sys2Proof/Laws/Device.lean ====
section
/-! SUPPORT. The device: what an exchange does in each frame state, the opcodes the engine emits, and the cells a
store can reach. -/

namespace Sys2Proof.Machine

/-! Opcodes (30_encoding.md R91, R93; 45_device_interpreter.md R252). -/

theorem register_opcodes : ∀ a : Byte, a ≤ Config.regHi →
    readOpcode a >>> Config.addrBits = 0b000 ∧ addressField (readOpcode a) = a ∧
      writeOpcode a >>> Config.addrBits ≠ 0b000 ∧ writeOpcode a >>> Config.addrBits = 0b001 ∧
      addressField (writeOpcode a) = a := by decide

theorem write_opcode_back : ∀ b : Byte, b >>> Config.addrBits = 0b001 → b = writeOpcode (addressField b) := by decide

theorem decodeOpcode_read (o : Opcodes) {a : Byte} (h : a ≤ Config.regHi) :
    decodeOpcode o (readOpcode a) = some (.readReg a) := by
  obtain ⟨h1, h2, _⟩ := register_opcodes a h
  rw [decodeOpcode, if_pos ⟨h1, by rw [h2]; exact h⟩, h2]

theorem decodeOpcode_write (o : Opcodes) {a : Byte} (h : a ≤ Config.regHi) :
    decodeOpcode o (writeOpcode a) = some (.writeReg a) := by
  obtain ⟨_, _, h1, h2, h3⟩ := register_opcodes a h
  rw [decodeOpcode, if_neg (fun e => h1 e.1), if_pos ⟨h2, by rw [h3]; exact h⟩, h3]

/-- The opcodes that open a register write are those of R91. -/
theorem decodeOpcode_eq_write {o : Opcodes} {op a : Byte} (h : decodeOpcode o op = some (.writeReg a)) :
    op = writeOpcode a ∧ a ≤ Config.regHi := by
  unfold decodeOpcode at h
  split_ifs at h with h1 h2 <;> simp only [Option.some.injEq, reduceCtorEq, Opcode.writeReg.injEq] at h
  exact h ▸ ⟨write_opcode_back op h2.1, h2.2⟩

/-! The answer of the device, or of nothing. -/

theorem answer_absent (out : Byte) {s : State} (h : s.cfg.present = false) : s.answer out = (s.cfg.absentByte, s.dev) := by
  simp [State.answer, h]

theorem answer_present (out : Byte) {s : State} (h : s.cfg.present = true) :
    s.answer out = s.dev.exchange s.cfg s.draw out := by simp [State.answer, h]

theorem onDevice_absent (f : Device → Device) {s : State} (h : s.cfg.present = false) : s.onDevice f = s.dev := by
  simp [State.onDevice, h]

theorem onDevice_present (f : Device → Device) {s : State} (h : s.cfg.present = true) : s.onDevice f = f s.dev := by
  simp [State.onDevice, h]

/-! Cells. -/

@[simp] theorem Device.cell_inFrame (c : Cfg) (f : DevFrame) (d : Device) (a : Byte) (i : Nat) : (d.inFrame f).cell c a i = d.cell c a i :=
  Device.cell_congr rfl rfl rfl c a i

@[simp] theorem Device.cell_select (c : Cfg) (d : Device) (a : Byte) (i : Nat) : d.select.cell c a i = d.cell c a i :=
  Device.cell_congr rfl rfl rfl c a i

@[simp] theorem Device.cell_clearFlags (c c' : Cfg) (v : Byte) (d : Device) (a : Byte) (i : Nat) : (d.clearFlags c' v).cell c a i = d.cell c a i :=
  Device.cell_congr rfl rfl rfl c a i

@[simp] theorem Device.cell_openFrame (c c' : Cfg) (op : Byte) (d : Device) (a : Byte) (i : Nat) : (d.openFrame c' op).cell c a i = d.cell c a i := by
  unfold Device.openFrame
  split <;> exact Device.cell_congr rfl rfl rfl c a i

@[simp] theorem Device.cell_commit (c c' : Cfg) (d : Device) (a : Byte) (i : Nat) : (d.commit c').cell c a i = d.cell c a i := by
  unfold Device.commit Device.appendPayload
  repeat' split
  all_goals exact Device.cell_congr rfl rfl rfl c a i

@[simp] theorem Device.cell_deselect (c c' : Cfg) (d : Device) (a : Byte) (i : Nat) : (d.deselect c').cell c a i = d.cell c a i := by
  simp [Device.deselect]

@[simp] theorem Device.cell_finishBurst (c : Cfg) (b : Burst) (d : Device) (a : Byte) (i : Nat) : (d.finishBurst b).cell c a i = d.cell c a i :=
  Device.cell_congr rfl rfl rfl c a i

theorem trigger_cases (c : Cfg) (fresh : Nat → Byte) (d : Device) :
    d.trigger c fresh = d ∨ ∃ head rest, d.txFifo = head :: rest ∧ d.burst = none ∧ d.poweredUp c fresh = true ∧
      d.primRx c fresh = false ∧ d.trigger c fresh = { d with burst := some { frame := d.latched c fresh head, held := true } } := by
  unfold Device.trigger
  split
  · split
    · rename_i h; exact .inr ⟨_, _, ‹_›, ‹_›, h.1, by simpa using h.2, rfl⟩
    · exact .inl rfl
  · exact .inl rfl

@[simp] theorem Device.cell_trigger (c c' : Cfg) (fresh : Nat → Byte) (d : Device) (a : Byte) (i : Nat) : (d.trigger c' fresh).cell c a i = d.cell c a i := by
  rcases trigger_cases c' fresh d with h | ⟨_, _, _, _, _, _, h⟩ <;> rw [h]
  exact Device.cell_congr rfl rfl rfl c a i

/-- A store reaches no other register. -/
theorem Device.cell_store_ne (c : Cfg) {a b : Byte} (h : a ≠ b) (i : Nat) (v : Byte) (d : Device) (j : Nat) :
    (d.store c a i v).cell c b j = d.cell c b j := by
  unfold Device.store
  split_ifs <;> simp [Device.cell_setCell, Device.cell_unsettle, h]

/-- A store is dropped at a stuck address (45_device_interpreter.md R264). -/
theorem Device.store_stuck {c : Cfg} {a : Byte} (h : a ∈ c.stuck) (i : Nat) (v : Byte) (d : Device) :
    d.store c a i v = d := if_pos h

/-- So is the first byte at a read-only address (45_device_interpreter.md R255). -/
theorem Device.store_readOnly {c : Cfg} {a : Byte} (h : a ∈ c.readOnlyRegs) (v : Byte) (d : Device) :
    d.store c a 0 v = d := by
  unfold Device.store; split_ifs <;> simp_all

/-- A further byte at a read-only address leaves later reads of it draws (R255; log 36). -/
theorem Device.store_readOnly_next {c : Cfg} {a : Byte} (hs : a ∉ c.stuck) (h : a ∈ c.readOnlyRegs) {i : Nat} (hi : i ≠ 0)
    (v : Byte) (d : Device) : d.store c a i v = d.unsettle c a := by
  unfold Device.store; rw [if_neg hs, if_pos h, if_neg hi]

/-- Outside the registers themselves, a store changes at most the three flags. -/
theorem Device.store_rest (c : Cfg) (a : Byte) (i : Nat) (v : Byte) (d : Device) :
    (d.store c a i v).txFifo = d.txFifo ∧ (d.store c a i v).rxFifo = d.rxFifo ∧ (d.store c a i v).frame = d.frame ∧
      (d.store c a i v).burst = d.burst ∧ (d.store c a i v).fault = d.fault := by
  unfold Device.store Device.setCell
  cases i <;> split_ifs <;> exact ⟨rfl, rfl, rfl, rfl, rfl⟩

/-- A store to a register other than the status register changes no flag. -/
theorem Device.store_flags (c : Cfg) {a : Byte} (h : a ≠ c.regStatus) (i : Nat) (v : Byte) (d : Device) :
    (d.store c a i v).dataReceived = d.dataReceived ∧ (d.store c a i v).dataSent = d.dataSent ∧
      (d.store c a i v).maxRetransmit = d.maxRetransmit := by
  unfold Device.store Device.setCell
  simp only [h, if_false]
  cases i <;> split_ifs <;> exact ⟨rfl, rfl, rfl⟩

/-! An exchange. -/

/-- An exchange that is not a data byte of a write of register `a` leaves its cells alone. -/
theorem Device.cell_exchange (c : Cfg) (draw out a : Byte) (d : Device) (h : ∀ i, d.frame ≠ .regWrite a i) (j : Nat) :
    (d.exchange c draw out).2.cell c a j = d.cell c a j := by
  unfold Device.exchange
  split
  all_goals try simp
  rename_i b i hf
  exact Device.cell_store_ne c (fun e => h i (by rw [hf, e])) i out d j

/-- Outside a register-write frame no cell changes. -/
theorem Device.cell_exchange_read (c : Cfg) (draw out : Byte) (d : Device) (h : ∀ b i, d.frame ≠ .regWrite b i)
    (c' : Cfg) (a : Byte) (j : Nat) : (d.exchange c draw out).2.cell c' a j = d.cell c' a j := by
  unfold Device.exchange
  split
  all_goals try simp
  rename_i b i hf
  exact absurd hf (h b i)

/-- The frame state after an exchange. -/
theorem Device.exchange_frame (c : Cfg) (draw out : Byte) (d : Device) :
    (d.exchange c draw out).2.frame = match d.frame with
      | .none => .none
      | .awaitOpcode => (d.openFrame c out).frame
      | .regRead a i => .regRead a (i + 1)
      | .regWrite a i => .regWrite a (i + 1)
      | .rxRead i => .rxRead (i + 1)
      | .txWrite l => .txWrite (l ++ [out])
      | .done => .done := by
  unfold Device.exchange
  split <;> simp_all

/-- An exchange outside the opcode exchange touches neither FIFO, burst nor fault. -/
theorem Device.exchange_data (c : Cfg) (draw out : Byte) (d : Device) (h : d.frame ≠ .awaitOpcode) :
    (d.exchange c draw out).2.txFifo = d.txFifo ∧ (d.exchange c draw out).2.rxFifo = d.rxFifo ∧
      (d.exchange c draw out).2.burst = d.burst ∧ (d.exchange c draw out).2.fault = d.fault := by
  unfold Device.exchange
  split <;> simp_all
  exact ⟨(Device.store_rest ..).1, (Device.store_rest ..).2.1, (Device.store_rest ..).2.2.2.1, (Device.store_rest ..).2.2.2.2⟩

/-- An exchange that is not a data byte of a status write changes no flag. -/
theorem Device.exchange_flags (c : Cfg) (draw out : Byte) (d : Device) (h : ∀ i, d.frame ≠ .regWrite c.regStatus i) :
    (d.exchange c draw out).2.dataReceived = d.dataReceived ∧ (d.exchange c draw out).2.dataSent = d.dataSent ∧
      (d.exchange c draw out).2.maxRetransmit = d.maxRetransmit := by
  unfold Device.exchange
  split
  case h_2 => unfold Device.openFrame; split <;> exact ⟨rfl, rfl, rfl⟩
  case h_4 a i hf => exact Device.store_flags c (fun e => h i (by rw [hf, e])) i out d
  all_goals exact ⟨rfl, rfl, rfl⟩

/-- The opcode exchange of the engine's opcodes. -/
theorem Device.exchange_open (c : Cfg) (draw out : Byte) (d : Device) (h : d.frame = .awaitOpcode) :
    d.exchange c draw out = (d.statusByte c, d.openFrame c out) := by simp [Device.exchange, h]

/-- The status byte depends on the flags and the FIFOs only. -/
theorem Device.statusByte_congr {c : Cfg} {d e : Device} (h1 : e.dataReceived = d.dataReceived) (h2 : e.dataSent = d.dataSent)
    (h3 : e.maxRetransmit = d.maxRetransmit) (h4 : e.txFifo = d.txFifo) (h5 : e.rxFifo = d.rxFifo) :
    e.statusByte c = d.statusByte c := by simp [Device.statusByte, h1, h2, h3, h4, h5]

@[simp] theorem Device.statusByte_inFrame (c : Cfg) (f : DevFrame) (d : Device) : (d.inFrame f).statusByte c = d.statusByte c := rfl

@[simp] theorem Device.statusByte_select (c : Cfg) (d : Device) : d.select.statusByte c = d.statusByte c := rfl

@[simp] theorem Device.inFrame_inFrame (f g : DevFrame) (d : Device) : (d.inFrame f).inFrame g = d.inFrame g := rfl

@[simp] theorem Device.select_eq (d : Device) : d.select = d.inFrame .awaitOpcode := rfl

end Sys2Proof.Machine
end

