-- ==== Sys2Proof/Laws/Runs.lean ====
section
/-! SUPPORT. Operations whose every exchange completes (`ExchangesComplete`): each frame of the engine returns, in the
state written here out of four steps, and everything such a frame leaves alone is said once (`Bus`). -/

namespace Sys2Proof.Machine

/-! The four steps of a frame, each after its gap. -/

/-- A frame opened. -/
def opened (s : State) : State := (gap s).selected.stamped .csnAssert

/-- A byte exchanged. -/
def sent (shown : Bool) (out : Byte) (s : State) : State := (gap s).exchanged shown out

/-- The byte that exchange shifts in. -/
def heard (out : Byte) (s : State) : Byte := ((gap s).answer out).1

/-- A frame closed. -/
def closed (s : State) : State := (gap s).deselected.stamped .csnDeassert

/-- The local values of the innermost operation changed (10_state.md R24). -/
def counted (f : Locals → Locals) (s : State) : State := s.withTop fun p => { p with loc := f p.loc }

/-- A byte of a burst exchanged, counted and kept (10_state.md R24, R27). -/
abbrev sentKept (shown : Bool) (out : Byte) (s : State) : State :=
  counted (Locals.keep shown (heard out s)) (sent shown out s)

/-- The bytes of a burst exchanged. -/
def sentAll (shown : Bool) : List Byte → State → State
  | [], s => s
  | b :: rest, s => sentAll shown rest (sentKept shown b s)

/-- The bytes a burst shifts in. -/
def heardAll : List Byte → State → List Byte
  | [], _ => []
  | b :: rest, s => heard b s :: heardAll rest (sentKept true b s)

/-! What bus activity leaves alone. -/

/-- From `s` to `t` every exchange completed and nothing but the cache, the lines of the bus, the sequencer, the port,
the device, the draws and the trace was touched by the engine. -/
structure Kept (s t : State) : Prop where
  cfg : t.cfg = s.cfg
  initialised : t.initialised = s.initialised
  ce : t.ce = s.ce
  countdown : t.countdown = s.countdown
  tickdiv : t.tickdiv = s.tickdiv
  tickArmed : t.tickArmed = s.tickArmed
  sensor : t.sensor = s.sensor
  complete : s.port.left = none → t.port.left = none
  quiet : Quiet s → Quiet t ∧ t.air = s.air ∧ t.inbox = s.inbox ∧ t.resp = s.resp
  absent : s.cfg.present = false → t.dev = s.dev

/-- From `s` to `t` there was only bus activity: the cache is as it was, too. -/
structure Bus (s t : State) : Prop extends Kept s t where
  cache : t.cache = s.cache

theorem Kept.refl (s : State) : Kept s s :=
  ⟨rfl, rfl, rfl, rfl, rfl, rfl, rfl, id, fun h => ⟨h, rfl, rfl, rfl⟩, fun _ => rfl⟩

theorem Kept.trans {s t u : State} (h : Kept s t) (k : Kept t u) : Kept s u where
  cfg := k.cfg.trans h.cfg
  initialised := k.initialised.trans h.initialised
  ce := k.ce.trans h.ce
  countdown := k.countdown.trans h.countdown
  tickdiv := k.tickdiv.trans h.tickdiv
  tickArmed := k.tickArmed.trans h.tickArmed
  sensor := k.sensor.trans h.sensor
  complete hs := k.complete (h.complete hs)
  quiet hs := by
    obtain ⟨a, b, c, d⟩ := h.quiet hs
    obtain ⟨a', b', c', d'⟩ := k.quiet a
    exact ⟨a', b'.trans b, c'.trans c, d'.trans d⟩
  absent hs := (k.absent (by rw [h.cfg]; exact hs)).trans (h.absent hs)

theorem Bus.refl (s : State) : Bus s s := ⟨.refl s, rfl⟩

theorem Bus.trans {s t u : State} (h : Bus s t) (k : Bus t u) : Bus s u :=
  ⟨h.toKept.trans k.toKept, k.cache.trans h.cache⟩

theorem Device.exchange_burst {c : Cfg} {draw out : Byte} {d : Device} (h : d.burst = none) :
    (d.exchange c draw out).2.burst = none := by
  by_cases hf : d.frame = .awaitOpcode
  · rw [Device.exchange_open c draw out d hf]
    unfold Device.openFrame
    split <;> simp [Device.openRegisterRead, Device.openRegisterWrite, Device.openPayloadRead, Device.openPayloadWrite,
      Device.nop, h]
  · rw [(Device.exchange_data c draw out d hf).2.2.1, h]

theorem gap_bus (s : State) : Bus s (gap s) where
  cfg := by simp
  cache := by simp
  initialised := by simp
  ce := by simp
  countdown := by simp
  tickdiv := by simp
  tickArmed := by simp
  sensor := by simp
  complete h := by simp [h]
  quiet h := by rw [gap_quiet h]; exact ⟨h, rfl, rfl, rfl⟩
  absent h := (gap_absent h).1

/-- A step that follows its gap and moves the sequencer, the line of bus-select, the port, the device, the draws and
the trace only is bus activity. -/
theorem Bus.after {s t : State} (hcfg : t.cfg = (gap s).cfg) (hcache : t.cache = (gap s).cache)
    (hi : t.initialised = (gap s).initialised) (hce : t.ce = (gap s).ce) (hcd : t.countdown = (gap s).countdown)
    (htd : t.tickdiv = (gap s).tickdiv) (hta : t.tickArmed = (gap s).tickArmed) (hse : t.sensor = (gap s).sensor)
    (hc : (gap s).port.left = none → t.port.left = none) (henv : t.env = (gap s).env) (hair : t.air = (gap s).air)
    (hin : t.inbox = (gap s).inbox) (hr : t.resp = (gap s).resp)
    (hb : (gap s).dev.burst = none → t.dev.burst = none) (ha : (gap s).cfg.present = false → t.dev = (gap s).dev) :
    Bus s t :=
  (gap_bus s).trans ⟨⟨hcfg, hi, hce, hcd, htd, hta, hse, hc,
    fun h => ⟨⟨henv.trans h.1, hb h.2⟩, hair, hin, hr⟩, ha⟩, hcache⟩

theorem opened_bus (s : State) : Bus s (opened s) :=
  Bus.after rfl rfl rfl rfl rfl rfl rfl rfl id rfl rfl rfl rfl
    (fun h => by
      show ((gap s).onDevice Device.select).burst = none
      unfold State.onDevice; split <;> exact h)
    (fun h => onDevice_absent _ h)

theorem sent_bus (shown : Bool) (out : Byte) (s : State) : Bus s (sent shown out s) :=
  Bus.after rfl rfl rfl rfl rfl rfl rfl rfl (fun h => by show Option.map _ (gap s).port.left = none; rw [h]; rfl)
    rfl rfl rfl rfl
    (fun h => by
      show ((gap s).answer out).2.burst = none
      unfold State.answer; split
      · exact Device.exchange_burst h
      · exact h)
    (fun h => by show ((gap s).answer out).2 = _; rw [answer_absent out h])

theorem commit_burst (c : Cfg) (d : Device) : (d.commit c).burst = d.burst := by
  unfold Device.commit Device.appendPayload
  repeat' split
  all_goals rfl

theorem closed_bus (s : State) : Bus s (closed s) :=
  Bus.after rfl rfl rfl rfl rfl rfl rfl rfl id rfl rfl rfl rfl
    (fun h => by
      show ((gap s).onDevice (Device.deselect (gap s).cfg)).burst = none
      unfold State.onDevice; split
      · exact (commit_burst _ _).trans h
      · exact h)
    (fun h => onDevice_absent _ h)

/-- A change of the sequencer is no activity at all. -/
theorem Bus.ofSeq (s : State) (q : List Position) : Bus s { s with seq := q } :=
  ⟨⟨rfl, rfl, rfl, rfl, rfl, rfl, rfl, id, fun h => ⟨h, rfl, rfl, rfl⟩, fun _ => rfl⟩, rfl⟩

theorem sentAll_bus (shown : Bool) (l : List Byte) (s : State) : Bus s (sentAll shown l s) := by
  induction l generalizing s with
  | nil => exact .refl s
  | cons b l ih => exact ((sent_bus shown b s).trans (Bus.ofSeq _ _)).trans (ih _)

/-! Runs. -/

theorem xchg_sent (shown : Bool) (out : Byte) {s : State} (h : s.port.left = none) :
    (xchg shown out).run s = .ok (heard out s) (sent shown out s) := xchg_run shown out h

theorem csnAssert_opened (s : State) : csnAssert.run s = .ok () (opened s) := rfl

theorem csnDeassert_closed (s : State) : csnDeassert.run s = .ok () (closed s) := rfl

theorem sent_left {shown : Bool} {out : Byte} {s : State} (h : s.port.left = none) : (sent shown out s).port.left = none :=
  (sent_bus shown out s).complete h

theorem opened_left {s : State} (h : s.port.left = none) : (opened s).port.left = none := (opened_bus s).complete h

theorem sentAll_left {shown : Bool} {l : List Byte} {s : State} (h : s.port.left = none) :
    (sentAll shown l s).port.left = none := (sentAll_bus shown l s).complete h

theorem xchgKept_run (shown : Bool) (out : Byte) {s : State} (h : s.port.left = none) :
    (xchgKept shown out).run s = .ok (heard out s) (sentKept shown out s) := by
  simp only [xchgKept, EStateM.run_bind, xchg_sent shown out h, noteLocals_run]; rfl

theorem sendAll_run (l : List Byte) {s : State} (h : s.port.left = none) :
    (sendAll l).run s = .ok () (sentAll false l s) := by
  induction l generalizing s with
  | nil => rfl
  | cons b l ih =>
    simp only [sendAll, EStateM.run_bind, xchgKept_run false b h]
    exact ih (s := sentKept false b s) (sent_left (shown := false) h)

theorem receiveAll_run (n : Nat) {s : State} (h : s.port.left = none) :
    (receiveAll n).run s = .ok (heardAll (List.replicate n Config.dummy) s)
      (sentAll true (List.replicate n Config.dummy) s) := by
  induction n generalizing s with
  | zero => rfl
  | succ n ih =>
    simp only [receiveAll, EStateM.run_bind, xchgKept_run true _ h]
    rw [ih (s := sentKept true Config.dummy s) (sent_left (shown := true) h)]; rfl

theorem exchangeAll_run (l : List Byte) {s : State} (h : s.port.left = none) :
    (exchangeAll l).run s = .ok (heardAll l s) (sentAll true l s) := by
  induction l generalizing s with
  | nil => rfl
  | cons b l ih =>
    simp only [exchangeAll, EStateM.run_bind, xchgKept_run true b h]
    rw [ih (s := sentKept true b s) (sent_left (shown := true) h)]; rfl

/-- A frame with one opcode and one data byte. -/
def framed1 (shown : Bool) (op out : Byte) (s : State) : State := closed (sent shown out (sent shown op (opened s)))

/-- A frame with one opcode and the data bytes given. -/
def framedAll (shown : Bool) (op : Byte) (l : List Byte) (s : State) : State :=
  closed (sentAll shown l (sent shown op (opened s)))

theorem readRegisterBody_run (a : Byte) {s : State} (h : s.port.left = none) :
    (readRegisterBody a).run s =
      .ok (heard Config.dummy (sent true (readOpcode a) (opened s))) (framed1 true (readOpcode a) Config.dummy s) := by
  simp only [readRegisterBody, EStateM.run_bind, csnAssert_opened, xchg_sent true _ (opened_left h)]
  rw [xchg_sent true _ (sent_left (opened_left h))]
  rfl

theorem writeRegisterBody_run (a d : Byte) {s : State} (h : s.port.left = none) :
    (writeRegisterBody a d).run s = .ok () (framed1 false (writeOpcode a) d s) := by
  simp only [writeRegisterBody, EStateM.run_bind, csnAssert_opened, xchg_sent false _ (opened_left h)]
  rw [xchg_sent false _ (sent_left (opened_left h))]
  rfl

theorem writeCommandBody_run (c : Byte) {s : State} (h : s.port.left = none) :
    (writeCommandBody c).run s = .ok (heard c (opened s)) (framedAll true c [] s) := by
  simp only [writeCommandBody, EStateM.run_bind, csnAssert_opened, xchg_sent true _ (opened_left h)]
  rfl

theorem writeRegisterBurstBody_run (a : Byte) (l : List Byte) {s : State} (h : s.port.left = none) :
    (writeRegisterBurstBody a l).run s = .ok () (framedAll false (writeOpcode a) l s) := by
  simp only [writeRegisterBurstBody, EStateM.run_bind, csnAssert_opened, xchg_sent false _ (opened_left h)]
  rw [sendAll_run l (sent_left (opened_left h))]
  rfl

theorem writeFifoBody_run (c : Cfg) {n : Byte} (hn : n ≠ 0) (buf : List Byte) {s : State} (h : s.port.left = none) :
    (writeFifoBody c n buf).run s = .ok () (framedAll false c.opcWTxPayload (payload n buf) s) := by
  simp only [writeFifoBody, hn, if_false, EStateM.run_bind, csnAssert_opened, xchg_sent false _ (opened_left h)]
  rw [sendAll_run _ (sent_left (opened_left h))]
  rfl

theorem readFifoBody_run (c : Cfg) {n : Byte} (hn : n ≠ 0) {s : State} (h : s.port.left = none) :
    (readFifoBody c n).run s =
      .ok (heardAll (List.replicate n.toNat Config.dummy) (sent true c.opcRRxPayload (opened s)))
        (framedAll true c.opcRRxPayload (List.replicate n.toNat Config.dummy) s) := by
  simp only [readFifoBody, hn, if_false, EStateM.run_bind, csnAssert_opened, xchg_sent true _ (opened_left h)]
  rw [receiveAll_run _ (sent_left (opened_left h))]
  rfl

theorem frameBody_run (op : Byte) (l : List Byte) {s : State} (h : s.port.left = none) :
    (frameBody (op :: l)).run s =
      .ok { outcome := .ok, d := heard op (opened s), buf := heardAll l (sentKept true op (opened s)) }
        (closed (sentAll true l (sentKept true op (opened s)))) := by
  simp only [frameBody, EStateM.run_bind, csnAssert_opened, exchangeAll_run (op :: l) (opened_left h)]
  rfl

theorem framed1_bus (shown : Bool) (op out : Byte) (s : State) : Bus s (framed1 shown op out s) :=
  (((opened_bus s).trans (sent_bus _ _ _)).trans (sent_bus _ _ _)).trans (closed_bus _)

theorem framedAll_bus (shown : Bool) (op : Byte) (l : List Byte) (s : State) : Bus s (framedAll shown op l s) :=
  (((opened_bus s).trans (sent_bus _ _ _)).trans (sentAll_bus _ _ _)).trans (closed_bus _)

end Sys2Proof.Machine
end

