-- ==== Sys2Proof/Laws/FrameFacts.lean ====
section
/-! SUPPORT. What a frame whose exchanges complete leaves: the trace, the sequencer, the lines, the device's cells
whatever the other agents do, and the whole device when no other agent steps (`Quiet`). -/

namespace Sys2Proof.Machine

/-! Trace, sequencer, bus-select. -/

@[simp] theorem opened_trace (s : State) : (opened s).trace = .csnAssert :: s.trace := by simp [opened]
@[simp] theorem opened_seq (s : State) : (opened s).seq = advance s.seq := by simp [opened]
@[simp] theorem opened_cfg (s : State) : (opened s).cfg = s.cfg := by simp [opened]
@[simp] theorem closed_trace (s : State) : (closed s).trace = .csnDeassert :: s.trace := by simp [closed]
@[simp] theorem closed_seq (s : State) : (closed s).seq = advance s.seq := by simp [closed]
@[simp] theorem closed_cfg (s : State) : (closed s).cfg = s.cfg := by simp [closed]
@[simp] theorem closed_csn (s : State) : (closed s).csn = .deasserted := by simp [closed]
@[simp] theorem closed_port (s : State) : (closed s).port = s.port := by simp [closed]
@[simp] theorem sent_trace (shown : Bool) (out : Byte) (s : State) :
    (sent shown out s).trace = .xchg out (if shown then some (heard out s) else none) :: s.trace := by
  simp [sent, heard]
@[simp] theorem sent_seq (shown : Bool) (out : Byte) (s : State) : (sent shown out s).seq = advance s.seq := by simp [sent]
@[simp] theorem sent_cfg (shown : Bool) (out : Byte) (s : State) : (sent shown out s).cfg = s.cfg := by simp [sent]
@[simp] theorem sent_shiftIn (shown : Bool) (out : Byte) (s : State) : (sent shown out s).port.shiftIn = heard out s := rfl
@[simp] theorem counted_cfg (f : Locals → Locals) (s : State) : (counted f s).cfg = s.cfg := rfl
@[simp] theorem counted_trace (f : Locals → Locals) (s : State) : (counted f s).trace = s.trace := rfl
@[simp] theorem counted_dev (f : Locals → Locals) (s : State) : (counted f s).dev = s.dev := rfl

/-- The sequencer has moved inside the innermost operation only. -/
def SameCallers (q q' : List Position) : Prop := ∃ p p' r, q = p :: r ∧ q' = p' :: r

theorem SameCallers.advance {q q' : List Position} (h : SameCallers q q') : SameCallers q (advance q') := by
  obtain ⟨p, p', r, rfl, rfl⟩ := h; exact ⟨p, _, r, rfl, rfl⟩

theorem SameCallers.mapTop {q q' : List Position} (f : Position → Position) (h : SameCallers q q') :
    SameCallers q (mapTop f q') := by
  obtain ⟨p, p', r, rfl, rfl⟩ := h; exact ⟨p, _, r, rfl, rfl⟩

theorem SameCallers.start {p : Position} {r : List Position} : SameCallers (p :: r) (p :: r) := ⟨p, p, r, rfl, rfl⟩

theorem SameCallers.popped {q q' : List Position} (h : SameCallers q q') : popped q' = popped q := by
  obtain ⟨p, p', r, rfl, rfl⟩ := h; rfl

theorem sentAll_callers (shown : Bool) (l : List Byte) {q : List Position} {s : State} (h : SameCallers q s.seq) :
    SameCallers q (sentAll shown l s).seq := by
  induction l generalizing s with
  | nil => exact h
  | cons b l ih => exact ih (by simpa [counted] using h.advance.mapTop _)

@[simp] theorem sentAll_cfg (shown : Bool) (l : List Byte) (s : State) : (sentAll shown l s).cfg = s.cfg :=
  (sentAll_bus shown l s).cfg

/-- The tokens of a burst whose incoming bytes are discarded, newest first. -/
theorem sentAll_trace_hidden (l : List Byte) (s : State) :
    (sentAll false l s).trace = (l.map fun b => TraceEvent.xchg b none).reverse ++ s.trace := by
  induction l generalizing s with
  | nil => rfl
  | cons b l ih => simp [sentAll, ih]

/-- The tokens of a burst whose incoming bytes are kept, newest first. -/
theorem sentAll_trace_shown (l : List Byte) (s : State) :
    (sentAll true l s).trace = ((l.zip (heardAll l s)).map fun p => TraceEvent.xchg p.1 (some p.2)).reverse ++ s.trace := by
  induction l generalizing s with
  | nil => rfl
  | cons b l ih => simp [sentAll, heardAll, ih]

theorem heardAll_length (l : List Byte) (s : State) : (heardAll l s).length = l.length := by
  induction l generalizing s with
  | nil => rfl
  | cons b l ih => simp [heardAll, ih]

theorem framed1_callers {shown : Bool} {op out : Byte} {q : List Position} {s : State} (h : SameCallers q s.seq) :
    SameCallers q (framed1 shown op out s).seq := by
  simpa [framed1] using h.advance.advance.advance.advance

theorem framedAll_callers {shown : Bool} {op : Byte} {l : List Byte} {q : List Position} {s : State}
    (h : SameCallers q s.seq) : SameCallers q (framedAll shown op l s).seq := by
  unfold framedAll
  rw [closed_seq]
  exact (sentAll_callers shown l (by simpa using h.advance.advance)).advance

/-! The absent device. -/

theorem heard_absent (out : Byte) {s : State} (h : s.cfg.present = false) : heard out s = s.cfg.absentByte := by
  unfold heard
  rw [answer_absent out (by simpa using h)]
  simp

theorem heardAll_absent (l : List Byte) {s : State} (h : s.cfg.present = false) :
    heardAll l s = List.replicate l.length s.cfg.absentByte := by
  induction l generalizing s with
  | nil => rfl
  | cons b l ih =>
    simp only [heardAll, heard_absent b h, List.length_cons, List.replicate_succ, List.cons.injEq, true_and]
    rw [ih (by simpa using h)]; simp

/-! The present device, whatever the other agents do. -/

theorem opened_dev {s : State} (h : s.cfg.present = true) : (opened s).dev = (gap s).dev.inFrame .awaitOpcode := by
  simp [opened, State.onDevice, h]

theorem sent_dev {shown : Bool} {out : Byte} {s : State} (h : s.cfg.present = true) :
    (sent shown out s).dev = ((gap s).dev.exchange s.cfg (gap s).draw out).2 := by
  simp [sent, State.answer, h]

theorem heard_present {out : Byte} {s : State} (h : s.cfg.present = true) :
    heard out s = ((gap s).dev.exchange s.cfg (gap s).draw out).1 := by
  simp [heard, State.answer, h]

theorem closed_dev {s : State} (h : s.cfg.present = true) : (closed s).dev = (gap s).dev.deselect s.cfg := by
  simp [closed, State.onDevice, h]

theorem opened_frame {s : State} (h : s.cfg.present = true) : (opened s).dev.frame = .awaitOpcode := by
  simp [opened_dev h]

@[simp] theorem opened_cell (s : State) (c : Cfg) (a : Byte) (i : Nat) : (opened s).dev.cell c a i = s.dev.cell c a i := by
  cases h : s.cfg.present
  · rw [(opened_bus s).absent h]
  · simp [opened_dev h]

@[simp] theorem closed_cell (s : State) (c : Cfg) (a : Byte) (i : Nat) : (closed s).dev.cell c a i = s.dev.cell c a i := by
  cases h : s.cfg.present
  · rw [(closed_bus s).absent h]
  · simp [closed_dev h]

/-- Outside a register-write frame an exchange leaves every cell alone. -/
theorem sent_cell {shown : Bool} {out : Byte} {s : State} (h : s.cfg.present = true → ∀ b i, s.dev.frame ≠ .regWrite b i)
    (c : Cfg) (a : Byte) (j : Nat) : (sent shown out s).dev.cell c a j = s.dev.cell c a j := by
  cases hp : s.cfg.present
  · rw [(sent_bus shown out s).absent hp]
  · rw [sent_dev hp, Device.cell_exchange_read _ _ _ _ (by simpa using h hp)]; simp

/-- An exchange that is not a data byte of a write of register `a` leaves its cells alone. -/
theorem sent_cell_other {shown : Bool} {out a : Byte} {s : State}
    (h : s.cfg.present = true → ∀ i, s.dev.frame ≠ .regWrite a i) (j : Nat) :
    (sent shown out s).dev.cell s.cfg a j = s.dev.cell s.cfg a j := by
  cases hp : s.cfg.present
  · rw [(sent_bus shown out s).absent hp]
  · rw [sent_dev hp, Device.cell_exchange _ _ _ _ _ (by simpa using h hp)]; simp

theorem sent_frame {shown : Bool} {out : Byte} {s : State} (h : s.cfg.present = true) :
    (sent shown out s).dev.frame = match s.dev.frame with
      | .none => .none
      | .awaitOpcode => (s.dev.openFrame s.cfg out).frame
      | .regRead a i => .regRead a (i + 1)
      | .regWrite a i => .regWrite a (i + 1)
      | .rxRead i => .rxRead (i + 1)
      | .txWrite l => .txWrite (l ++ [out])
      | .done => .done := by
  rw [sent_dev h, Device.exchange_frame, gap_frame]
  cases s.dev.frame <;> simp only
  unfold Device.openFrame
  split <;> rfl

/-- The frame state once the opcode is exchanged. -/
theorem sent_opcode {shown : Bool} {op : Byte} {o : Opcode} {s : State} (ho : decodeOpcode s.cfg.toOpcodes op = some o)
    (h : s.cfg.present = true) (hf : s.dev.frame = .awaitOpcode) :
    (sent shown op s).dev.frame = match o with
      | .readReg a => .regRead a 0
      | .writeReg a => .regWrite a 0
      | .readRx => .rxRead 0
      | .writeTx => .txWrite []
      | .flushTx => .done
      | .flushRx => .done
      | .nop => .done := by
  rw [sent_frame h, hf]
  simp only [Device.openFrame, ho]
  cases o <;> rfl

/-- A register read hears the byte of the register (45_device_interpreter.md R253). -/
theorem heard_register {a out : Byte} {s : State} (h : s.cfg.present = true) (hf : s.dev.frame = .regRead a 0)
    (ha : a ≠ s.cfg.regStatus) {b : Byte} (hb : s.dev.cell s.cfg a 0 = some (.known b)) : heard out s = b := by
  rw [heard_present h]
  simp only [Device.exchange, gap_frame, hf, Device.registerByte, gap_cell, hb, ha, if_false]

/-- The store of a data byte of a register write (R255). -/
theorem sent_store {shown : Bool} {a out : Byte} {i : Nat} {s : State} (h : s.cfg.present = true)
    (hf : s.dev.frame = .regWrite a i) :
    (sent shown out s).dev = ((gap s).dev.store s.cfg a i out).inFrame (.regWrite a (i + 1)) := by
  rw [sent_dev h]
  simp [Device.exchange, hf]

/-! Cells after a store. -/

/-- A store that takes: the first byte of a one-byte register with a legal value, or one of the five bytes of a
5-byte register (R255, R262). -/
theorem cell_store_takes {c : Cfg} {a v : Byte} {i : Nat} {d : Device} (hs : a ∉ c.stuck) (hr : a ∉ c.readOnlyRegs)
    (hst : a ≠ c.regStatus)
    (hl : isFiveByte c a = true ∧ i < Config.addrLen ∨ isFiveByte c a = false ∧ i = 0 ∧ legalValue c a v = true) :
    d.store c a i v = d.setCell c a (.known v) i := by
  unfold Device.store
  rcases hl with ⟨h1, h2⟩ | ⟨h1, rfl, h2⟩ <;>
    simp only [hs, hr, hst, h1, h2, if_true, if_false, and_self, Bool.false_eq_true]

/-- A store no source describes: later reads are draws (R255). -/
theorem store_unsettles {c : Cfg} {a v : Byte} {i : Nat} {d : Device} (hs : a ∉ c.stuck)
    (h : a ∈ c.readOnlyRegs ∧ i ≠ 0 ∨ a ∉ c.readOnlyRegs ∧ (a = c.regStatus ∧ i ≠ 0 ∨
      a ≠ c.regStatus ∧ isFiveByte c a = true ∧ Config.addrLen ≤ i ∨
      a ≠ c.regStatus ∧ isFiveByte c a = false ∧ ¬ (i = 0 ∧ legalValue c a v = true))) :
    d.store c a i v = d.unsettle c a := by
  unfold Device.store
  rcases h with ⟨h1, h2⟩ | ⟨hr, ⟨h1, h2⟩ | ⟨h1, h2, h3⟩ | ⟨h1, h2, h3⟩⟩
  · simp only [hs, h1, h2, if_true, if_false]
  · subst h1; simp only [hs, hr, h2, if_true, if_false]
  · simp only [hs, hr, h1, h2, if_true, if_false, show ¬ i < Config.addrLen by omega]
  · simp only [hs, hr, h1, h2, h3, if_false, Bool.false_eq_true]

/-- What a store leaves in a register depends only on what its cells were. -/
theorem cell_store_congr {c : Cfg} {a v b : Byte} {i : Nat} {d e : Device} (h : ∀ b j, e.cell c b j = d.cell c b j) (j : Nat) :
    (e.store c a i v).cell c b j = (d.store c a i v).cell c b j := by
  unfold Device.store
  split_ifs <;> simp [Device.cell_setCell, Device.cell_unsettle, h]

end Sys2Proof.Machine
end

