-- ==== Sys2Proof/Laws/Operations.lean ====
section
/-! SUPPORT. One lemma for each frame of the engine: when exchanges complete it returns, and this is everything it
does. The same for a raw frame, and what calling, and serving, an operation adds around its body. -/

namespace Sys2Proof.Machine

/-- One whole frame: bus activity that ends with bus-select deasserted, inside the running operation. -/
structure Frame (s t : State) : Prop extends Bus s t where
  csn : t.csn = .deasserted
  callers : ∀ q, SameCallers q s.seq → SameCallers q t.seq

theorem framed1_frame (shown : Bool) (op out : Byte) (s : State) : Frame s (framed1 shown op out s) :=
  ⟨framed1_bus shown op out s, closed_csn _, fun _ h => framed1_callers h⟩

theorem framedAll_frame (shown : Bool) (op : Byte) (l : List Byte) (s : State) : Frame s (framedAll shown op l s) :=
  ⟨framedAll_bus shown op l s, closed_csn _, fun _ h => framedAll_callers h⟩

/-! The device when no other agent steps. -/

section

variable {s : State} (hp : s.cfg.present = true) (hq : Quiet s)
include hp hq

theorem opened_dev_quiet : (opened s).dev = s.dev.inFrame .awaitOpcode := by rw [opened_dev hp, gap_quiet hq]

theorem sent_dev_quiet (shown : Bool) (out : Byte) : (sent shown out s).dev = (s.dev.exchange s.cfg s.draw out).2 := by
  rw [sent_dev hp, gap_quiet hq]

theorem heard_quiet (out : Byte) : heard out s = (s.dev.exchange s.cfg s.draw out).1 := by
  rw [heard_present hp, gap_quiet hq]

theorem closed_dev_quiet : (closed s).dev = s.dev.deselect s.cfg := by rw [closed_dev hp, gap_quiet hq]

end

theorem opened_quiet {s : State} (h : Quiet s) : Quiet (opened s) := ((opened_bus s).quiet h).1

theorem sent_quiet {shown : Bool} {out : Byte} {s : State} (h : Quiet s) : Quiet (sent shown out s) :=
  ((sent_bus shown out s).quiet h).1

/-- The opcode exchange of a frame, when no other agent steps. -/
theorem opcode_quiet {s : State} (hp : s.cfg.present = true) (hq : Quiet s) (shown : Bool) (op : Byte) :
    (sent shown op (opened s)).dev = (s.dev.inFrame .awaitOpcode).openFrame s.cfg op ∧
      heard op (opened s) = s.dev.statusByte s.cfg := by
  have h1 := opened_dev_quiet hp hq
  have hp1 : (opened s).cfg.present = true := by simpa using hp
  rw [sent_dev_quiet hp1 (opened_quiet hq), heard_quiet hp1 (opened_quiet hq), h1,
    Device.exchange_open _ _ _ _ rfl, opened_cfg]
  exact ⟨rfl, rfl⟩

/-! ReadRegister (40_register_interface.md R123). -/

/-- What a register-read frame does. -/
theorem readRegisterBody_ok (a : Byte) (ha : a ≤ Config.regHi) {s : State} (hx : s.port.left = none) :
    ∃ t st v, (readRegisterBody a).run s = .ok v t ∧ Frame s t ∧
      t.trace = .csnDeassert :: .xchg Config.dummy (some v) :: .xchg (readOpcode a) (some st) :: .csnAssert :: s.trace ∧
      t.port.shiftIn = v ∧ (∀ k b i, t.dev.cell k b i = s.dev.cell k b i) ∧
      (s.cfg.present = false → v = s.cfg.absentByte) ∧
      (s.cfg.present = true → a ≠ s.cfg.regStatus → ∀ b, s.dev.cell s.cfg a 0 = some (.known b) → v = b) ∧
      (s.cfg.present = true → Quiet s → t.dev = s.dev.inFrame .none ∧ st = s.dev.statusByte s.cfg ∧
        (a = s.cfg.regStatus → ∀ b, s.dev.cell s.cfg a 0 = some (.known b) → v = s.dev.statusByte s.cfg)) := by
  refine ⟨framed1 true (readOpcode a) Config.dummy s, heard (readOpcode a) (opened s), _, readRegisterBody_run a hx,
    framed1_frame _ _ _ _, by simp [framed1], by simp [framed1], ?_, ?_, ?_, ?_⟩
  · intro k b i
    unfold framed1
    rw [closed_cell, sent_cell, sent_cell, opened_cell]
    · intro hp _ _; rw [opened_frame (by simpa using hp)]; simp
    · intro hp _ _
      rw [sent_opcode (by simpa using decodeOpcode_read s.cfg.toOpcodes ha) (by simpa using hp) (opened_frame (by simpa using hp))]; simp
  · intro h; rw [heard_absent _ (by simpa using h)]; simp
  · intro hp hst b hb
    refine heard_register (by simpa using hp) (a := a) ?_ (by simpa using hst) ?_
    · rw [sent_opcode (by simpa using decodeOpcode_read s.cfg.toOpcodes ha) (by simpa using hp) (opened_frame hp)]
    · rw [sent_cell, opened_cell, sent_cfg, opened_cfg, hb]
      intro _ _ _; rw [opened_frame hp]; simp
  · intro hp hq
    have ho := opcode_quiet hp hq true (readOpcode a)
    have hd : (sent true (readOpcode a) (opened s)).dev = s.dev.inFrame (.regRead a 0) := by
      rw [ho.1]; simp only [Device.openFrame, decodeOpcode_read s.cfg.toOpcodes ha]; rfl
    have hp2 : (sent true (readOpcode a) (opened s)).cfg.present = true := by simpa using hp
    have hq2 : Quiet (sent true (readOpcode a) (opened s)) := sent_quiet (opened_quiet hq)
    refine ⟨?_, ho.2, ?_⟩
    · unfold framed1
      rw [closed_dev_quiet (by simpa using hp) (sent_quiet hq2), sent_dev_quiet hp2 hq2, hd]
      rfl
    · intro hst b hb
      rw [heard_quiet hp2 hq2, hd]
      subst hst
      have hc : (s.dev.inFrame (.regRead s.cfg.regStatus 0)).cell s.cfg s.cfg.regStatus 0 = some (.known b) := hb
      have hf : (s.dev.inFrame (.regRead s.cfg.regStatus 0)).frame = .regRead s.cfg.regStatus 0 := rfl
      simp only [Device.exchange, hf, Device.registerByte, sent_cfg, opened_cfg, hc, if_true]
      simp

/-! WriteRegister (R124). -/

/-- What a register-write frame with one data byte does: the store of R255, whatever the other agents do as far as the
cells go. -/
theorem writeRegisterBody_ok (a d : Byte) (ha : a ≤ Config.regHi) {s : State} (hx : s.port.left = none) :
    ∃ t, (writeRegisterBody a d).run s = .ok () t ∧ Frame s t ∧
      t.trace = .csnDeassert :: .xchg d none :: .xchg (writeOpcode a) none :: .csnAssert :: s.trace ∧
      (s.cfg.present = true → ∀ b i, t.dev.cell s.cfg b i = (s.dev.store s.cfg a 0 d).cell s.cfg b i) ∧
      (s.cfg.present = true → Quiet s → t.dev = (s.dev.store s.cfg a 0 d).inFrame .none) := by
  refine ⟨framed1 false (writeOpcode a) d s, writeRegisterBody_run a d hx, framed1_frame _ _ _ _,
    by simp [framed1], ?_, ?_⟩
  · intro hp b i
    unfold framed1
    rw [closed_cell, sent_store (a := a) (i := 0) (by simpa using hp)
      (by rw [sent_opcode (by simpa using decodeOpcode_write s.cfg.toOpcodes ha) (by simpa using hp) (opened_frame hp)]), Device.cell_inFrame, sent_cfg,
      opened_cfg]
    refine cell_store_congr (fun c j => ?_) i
    rw [gap_cell, sent_cell, opened_cell]
    intro _ _ _; rw [opened_frame hp]; simp
  · intro hp hq
    have ho := opcode_quiet hp hq false (writeOpcode a)
    have hd : (sent false (writeOpcode a) (opened s)).dev = s.dev.inFrame (.regWrite a 0) := by
      rw [ho.1]; simp only [Device.openFrame, decodeOpcode_write s.cfg.toOpcodes ha]; rfl
    have hp2 : (sent false (writeOpcode a) (opened s)).cfg.present = true := by simpa using hp
    have hq2 : Quiet (sent false (writeOpcode a) (opened s)) := sent_quiet (opened_quiet hq)
    unfold framed1
    rw [closed_dev_quiet (by simpa using hp) (sent_quiet hq2), sent_dev_quiet hp2 hq2, hd]
    have hf : (s.dev.inFrame (.regWrite a 0)).frame = .regWrite a 0 := rfl
    simp only [Device.exchange, hf, sent_cfg, opened_cfg]
    rw [Device.deselect]
    unfold Device.store Device.setCell
    split_ifs <;> rfl

/-! WriteCommand (R125). -/

/-- The effect of a data-less command (45_device_interpreter.md R254). -/
def Device.command (c : Cfg) (b : Byte) (d : Device) : Device :=
  if b = c.opcFlushTx then { d with txFifo := [], burst := d.burst.map (fun b => { b with held := false }) }
  else if b = c.opcFlushRx then { d with rxFifo := [] }
  else d

theorem command_flushTx (c : Cfg) (d : Device) : d.command c c.opcFlushTx =
    { d with txFifo := [], burst := d.burst.map (fun b => { b with held := false }) } := if_pos rfl

theorem command_flushRx {c : Cfg} (h : c.mapped = true) (d : Device) : d.command c c.opcFlushRx = { d with rxFifo := [] } := by
  rw [Device.command, if_neg (flushRx_ne_flushTx (mapped_opcodes h)), if_pos rfl]

theorem command_nop {c : Cfg} (h : c.mapped = true) (d : Device) : d.command c c.opcNop = d := by
  rw [Device.command, if_neg (nop_ne_flushTx (mapped_opcodes h)), if_neg (nop_ne_flushRx (mapped_opcodes h))]

/-- What the frame of a data-less command does. -/
theorem writeCommandBody_ok (c : Byte) {s : State} (hm : s.cfg.mapped = true)
    (hc : c = s.cfg.opcFlushTx ∨ c = s.cfg.opcFlushRx ∨ c = s.cfg.opcNop) (hx : s.port.left = none) :
    ∃ t st, (writeCommandBody c).run s = .ok st t ∧ Frame s t ∧
      t.trace = .csnDeassert :: .xchg c (some st) :: .csnAssert :: s.trace ∧
      (∀ k b i, t.dev.cell k b i = s.dev.cell k b i) ∧
      (s.cfg.present = false → st = s.cfg.absentByte) ∧
      (s.cfg.present = true → Quiet s →
        t.dev = (s.dev.command s.cfg c).inFrame .none ∧ st = s.dev.statusByte s.cfg) := by
  refine ⟨framedAll true c [] s, _, writeCommandBody_run c hx, framedAll_frame _ _ _ _, by simp [framedAll, sentAll],
    ?_, ?_, ?_⟩
  · intro k b i
    unfold framedAll sentAll
    rw [closed_cell, sent_cell, opened_cell]
    intro hp _ _; rw [opened_frame (by simpa using hp)]; simp
  · intro h; rw [heard_absent _ (by simpa using h)]; simp
  · intro hp hq
    have ho := opcode_quiet hp hq true c
    refine ⟨?_, ho.2⟩
    unfold framedAll sentAll
    rw [closed_dev_quiet (by simpa using hp) (sent_quiet (opened_quiet hq)), ho.1]
    rcases hc with rfl | rfl | rfl
    · simp only [Device.openFrame, decodeOpcode_flushTx (mapped_opcodes hm), command_flushTx]; rfl
    · simp only [Device.openFrame, decodeOpcode_flushRx (mapped_opcodes hm), command_flushRx hm]; rfl
    · simp only [Device.openFrame, decodeOpcode_nop (mapped_opcodes hm), command_nop hm]; rfl

/-! Bursts. -/

/-- The stores of the data bytes of a register-write frame, from byte `i` on (R255). -/
def Device.storeAll (c : Cfg) (a : Byte) : Nat → List Byte → Device → Device
  | _, [], d => d
  | i, b :: rest, d => Device.storeAll c a (i + 1) rest (d.store c a i b)

theorem storeAll_cell_congr {c : Cfg} {a : Byte} (l : List Byte) (i : Nat) {d e : Device}
    (h : ∀ b j, e.cell c b j = d.cell c b j) (b : Byte) (j : Nat) :
    (e.storeAll c a i l).cell c b j = (d.storeAll c a i l).cell c b j := by
  induction l generalizing i d e with
  | nil => exact h b j
  | cons x l ih => exact ih (i + 1) (fun b j => cell_store_congr h j)

theorem store_inFrame (c : Cfg) (a : Byte) (i : Nat) (v : Byte) (f : DevFrame) (d : Device) :
    (d.inFrame f).store c a i v = (d.store c a i v).inFrame f := by
  unfold Device.store Device.setCell
  cases i <;> split_ifs <;> rfl

theorem storeAll_inFrame (c : Cfg) (a : Byte) (l : List Byte) (i : Nat) (f : DevFrame) (d : Device) :
    (d.inFrame f).storeAll c a i l = (d.storeAll c a i l).inFrame f := by
  induction l generalizing i d with
  | nil => rfl
  | cons x l ih => simp only [Device.storeAll, store_inFrame, ih]

theorem counted_quiet {f : Locals → Locals} {s : State} (h : Quiet s) : Quiet (counted f s) := h

/-- The data bytes of a register write. -/
theorem sentAll_store (shown : Bool) (a : Byte) (l : List Byte) (i : Nat) {s : State} (hp : s.cfg.present = true)
    (hf : s.dev.frame = .regWrite a i) :
    (sentAll shown l s).dev.frame = .regWrite a (i + l.length) ∧
      (∀ b j, (sentAll shown l s).dev.cell s.cfg b j = (s.dev.storeAll s.cfg a i l).cell s.cfg b j) ∧
      (Quiet s → (sentAll shown l s).dev = (s.dev.storeAll s.cfg a i l).inFrame (.regWrite a (i + l.length))) := by
  induction l generalizing i s with
  | nil =>
    refine ⟨hf, fun _ _ => rfl, fun _ => ?_⟩
    simp only [sentAll, Device.storeAll, List.length_nil, Nat.add_zero, ← hf]; rfl
  | cons x l ih =>
    have hd := sent_store (shown := shown) (out := x) hp hf
    have hf1 : (sentKept shown x s).dev.frame = .regWrite a (i + 1) := by rw [counted_dev, hd]; rfl
    obtain ⟨h1, h2, h3⟩ := ih (i + 1) (s := sentKept shown x s) (by simpa using hp) hf1
    refine ⟨?_, ?_, ?_⟩
    · rw [sentAll, h1, List.length_cons]; congr 1; omega
    · intro b j
      simp only [counted_cfg, sent_cfg] at h2
      rw [sentAll, h2, counted_dev, hd, Device.storeAll]
      refine storeAll_cell_congr l (i + 1) (fun b j => ?_) b j
      rw [Device.cell_inFrame]
      exact cell_store_congr (fun b j => gap_cell s _ b j) j
    · intro hq
      rw [sentAll, h3 (counted_quiet (sent_quiet hq)), counted_cfg, sent_cfg, counted_dev, hd, gap_quiet hq,
        Device.storeAll, storeAll_inFrame, Device.inFrame_inFrame, List.length_cons,
        show i + 1 + l.length = i + (l.length + 1) by omega]

/-- The data bytes of a payload write. -/
theorem sentAll_payload (shown : Bool) (l l0 : List Byte) {s : State} (hp : s.cfg.present = true)
    (hf : s.dev.frame = .txWrite l0) :
    (sentAll shown l s).dev.frame = .txWrite (l0 ++ l) ∧ (∀ k b j, (sentAll shown l s).dev.cell k b j = s.dev.cell k b j) ∧
      (Quiet s → (sentAll shown l s).dev = s.dev.inFrame (.txWrite (l0 ++ l))) := by
  induction l generalizing l0 s with
  | nil =>
    refine ⟨by simpa [sentAll] using hf, fun _ _ _ => rfl, fun _ => ?_⟩
    simp only [sentAll, List.append_nil, ← hf]; rfl
  | cons x l ih =>
    have hf1 : (sentKept shown x s).dev.frame = .txWrite (l0 ++ [x]) := by
      rw [counted_dev, sent_frame hp, hf]
    obtain ⟨h1, h2, h3⟩ := ih (l0 ++ [x]) (s := sentKept shown x s) (by simpa using hp) hf1
    have happ : l0 ++ [x] ++ l = l0 ++ x :: l := by simp
    rw [happ] at h1 h3
    refine ⟨h1, fun k b j => ?_, fun hq => ?_⟩
    · rw [sentAll, h2, counted_dev, sent_cell]; intro _ _ _; rw [hf]; simp
    · rw [sentAll, h3 (counted_quiet (sent_quiet hq)), counted_dev, sent_dev_quiet hp hq]
      simp only [Device.exchange, hf]
      rfl

/-- The data exchanges of a payload read. -/
theorem sentAll_read (l : List Byte) (i : Nat) {s : State} (hp : s.cfg.present = true) (hf : s.dev.frame = .rxRead i) :
    (sentAll true l s).dev.frame = .rxRead (i + l.length) ∧ (∀ k b j, (sentAll true l s).dev.cell k b j = s.dev.cell k b j) ∧
      (Quiet s → (sentAll true l s).dev = s.dev.inFrame (.rxRead (i + l.length)) ∧
        ∀ head rest, s.dev.rxFifo = head :: rest →
          ∀ k < l.length, i + k < head.length → (heardAll l s)[k]? = head[i + k]?) := by
  induction l generalizing i s with
  | nil =>
    refine ⟨by simpa [sentAll] using hf, fun _ _ _ => rfl, fun _ => ⟨?_, fun _ _ _ k h => by simp at h⟩⟩
    simp only [sentAll, List.length_nil, Nat.add_zero, ← hf]; rfl
  | cons x l ih =>
    have hf1 : (sentKept true x s).dev.frame = .rxRead (i + 1) := by rw [counted_dev, sent_frame hp, hf]
    obtain ⟨h1, h2, h3⟩ := ih (i + 1) (s := sentKept true x s) (by simpa using hp) hf1
    have hn : i + 1 + l.length = i + (l.length + 1) := by omega
    rw [hn] at h1 h3
    refine ⟨h1, fun k b j => ?_, fun hq => ?_⟩
    · rw [sentAll, h2, counted_dev, sent_cell]; intro _ _ _; rw [hf]; simp
    · obtain ⟨h4, h5⟩ := h3 (counted_quiet (sent_quiet hq))
      have hd : (sentKept true x s).dev = s.dev.inFrame (.rxRead (i + 1)) := by
        rw [counted_dev, sent_dev_quiet hp hq]; simp only [Device.exchange, hf]
      refine ⟨by rw [sentAll, h4, hd]; rfl, ?_⟩
      intro head rest hh k hk hik
      cases k with
      | zero =>
        simp only [heardAll, List.getElem?_cons_zero, Nat.add_zero]
        rw [heard_quiet hp hq]
        simp only [Device.exchange, hf, Device.payloadByte, hh]
        simp only [Nat.add_zero] at hik
        simp [List.getD, hik]
      | succ k =>
        simp only [heardAll, List.getElem?_cons_succ]
        rw [h5 head rest (by rw [hd]; exact hh) k (by simpa using hk) (by omega)]
        congr 1; omega

/-- The data exchanges of a register read, whatever the other agents do. -/
theorem sentAll_register (l : List Byte) (a : Byte) (i : Nat) {s : State} (hp : s.cfg.present = true)
    (hf : s.dev.frame = .regRead a i) :
    (sentAll true l s).dev.frame = .regRead a (i + l.length) ∧
      (∀ k b j, (sentAll true l s).dev.cell k b j = s.dev.cell k b j) ∧
      (a ≠ s.cfg.regStatus → ∀ k < l.length, ∀ b, s.dev.cell s.cfg a (i + k) = some (.known b) → (heardAll l s)[k]? = some b) ∧
      (Quiet s → (sentAll true l s).dev = s.dev.inFrame (.regRead a (i + l.length))) := by
  induction l generalizing i s with
  | nil =>
    refine ⟨by simpa [sentAll] using hf, fun _ _ _ => rfl, fun _ k h => by simp at h, fun _ => ?_⟩
    simp only [sentAll, List.length_nil, Nat.add_zero, ← hf]; rfl
  | cons x l ih =>
    have hf1 : (sentKept true x s).dev.frame = .regRead a (i + 1) := by rw [counted_dev, sent_frame hp, hf]
    have hc : ∀ k b j, (sentKept true x s).dev.cell k b j = s.dev.cell k b j := by
      intro k b j; rw [counted_dev, sent_cell]; intro _ _ _; rw [hf]; simp
    obtain ⟨h1, h2, h3, h4⟩ := ih (i + 1) (s := sentKept true x s) (by simpa using hp) hf1
    have hn : i + 1 + l.length = i + (l.length + 1) := by omega
    rw [hn] at h1 h4
    simp only [counted_cfg, sent_cfg] at h3
    refine ⟨h1, fun k b j => (h2 k b j).trans (hc k b j), fun ha k hk b hb => ?_, fun hq => ?_⟩
    · cases k with
      | zero =>
        simp only [heardAll, List.getElem?_cons_zero, Option.some.injEq]
        rw [heard_present hp]
        rw [Nat.add_zero] at hb
        simp only [Device.exchange, gap_frame, hf, Device.registerByte, gap_cell, hb, ha, if_false]
      | succ k =>
        simp only [heardAll, List.getElem?_cons_succ]
        exact h3 ha k (by simpa using hk) b (by rw [hc, show i + 1 + k = i + (k + 1) by omega]; exact hb)
    · have hd : (sentKept true x s).dev = s.dev.inFrame (.regRead a (i + 1)) := by
        rw [counted_dev, sent_dev_quiet hp hq]; simp only [Device.exchange, hf]
      rw [sentAll, h4 (counted_quiet (sent_quiet hq)), hd]; rfl

/-- A command frame ignores further exchanges (R254). -/
theorem sentAll_done (l : List Byte) {s : State} (hp : s.cfg.present = true) (hf : s.dev.frame = .done) :
    (sentAll true l s).dev.frame = .done ∧ (∀ k b j, (sentAll true l s).dev.cell k b j = s.dev.cell k b j) ∧
      (Quiet s → (sentAll true l s).dev = s.dev) := by
  induction l generalizing s with
  | nil => exact ⟨hf, fun _ _ _ => rfl, fun _ => rfl⟩
  | cons x l ih =>
    have hf1 : (sentKept true x s).dev.frame = .done := by rw [counted_dev, sent_frame hp, hf]
    obtain ⟨h1, h2, h3⟩ := ih (s := sentKept true x s) (by simpa using hp) hf1
    refine ⟨h1, fun k b j => ?_, fun hq => ?_⟩
    · rw [sentAll, h2, counted_dev, sent_cell]; intro _ _ _; rw [hf]; simp
    · rw [sentAll, h3 (counted_quiet (sent_quiet hq)), counted_dev, sent_dev_quiet hp hq]
      simp only [Device.exchange, hf]

/-! WriteRegisterBurst (R127). -/

/-- What a register-write frame with the data bytes given does. -/
theorem writeRegisterBurstBody_ok (a : Byte) (l : List Byte) (ha : a ≤ Config.regHi) {s : State} (hx : s.port.left = none) :
    ∃ t, (writeRegisterBurstBody a l).run s = .ok () t ∧ Frame s t ∧
      t.trace = .csnDeassert :: ((l.map fun b => TraceEvent.xchg b none).reverse ++
        .xchg (writeOpcode a) none :: .csnAssert :: s.trace) ∧
      (s.cfg.present = true → ∀ b i, t.dev.cell s.cfg b i = (s.dev.storeAll s.cfg a 0 l).cell s.cfg b i) ∧
      (s.cfg.present = true → Quiet s → t.dev = (s.dev.storeAll s.cfg a 0 l).inFrame .none) := by
  refine ⟨framedAll false (writeOpcode a) l s, writeRegisterBurstBody_run a l hx, framedAll_frame _ _ _ _,
    by simp [framedAll, sentAll_trace_hidden], ?_, ?_⟩
  · intro hp b i
    have hf : (sent false (writeOpcode a) (opened s)).dev.frame = .regWrite a 0 := by
      rw [sent_opcode (by simpa using decodeOpcode_write s.cfg.toOpcodes ha) (by simpa using hp) (opened_frame hp)]
    unfold framedAll
    have hc := (sentAll_store false a l 0 (by simpa using hp) hf).2.1
    simp only [sent_cfg, opened_cfg] at hc
    rw [closed_cell, hc]
    refine storeAll_cell_congr l 0 (fun c j => ?_) b i
    rw [sent_cell, opened_cell]
    intro _ _ _; rw [opened_frame hp]; simp
  · intro hp hq
    have hf : (sent false (writeOpcode a) (opened s)).dev.frame = .regWrite a 0 := by
      rw [sent_opcode (by simpa using decodeOpcode_write s.cfg.toOpcodes ha) (by simpa using hp) (opened_frame hp)]
    have hd : (sent false (writeOpcode a) (opened s)).dev = s.dev.inFrame (.regWrite a 0) := by
      rw [(opcode_quiet hp hq false _).1]; simp only [Device.openFrame, decodeOpcode_write s.cfg.toOpcodes ha]; rfl
    have hq2 : Quiet (sent false (writeOpcode a) (opened s)) := sent_quiet (opened_quiet hq)
    unfold framedAll
    rw [closed_dev_quiet (by simpa using hp) ((sentAll_bus _ _ _).quiet hq2).1,
      (sentAll_store false a l 0 (by simpa using hp) hf).2.2 hq2, hd, storeAll_inFrame, sent_cfg, opened_cfg]
    rfl

/-! WriteFifo (42_packet_io.md R181). -/

/-- A payload of 1 to 32 bytes written in a frame (R258). -/
def Device.load (c : Cfg) (l : List Byte) (d : Device) : Device := (d.appendPayload c l).inFrame .none

theorem appendPayload_inFrame (c : Cfg) (l : List Byte) (f : DevFrame) (d : Device) :
    (d.inFrame f).appendPayload c l = (d.appendPayload c l).inFrame f := by
  unfold Device.appendPayload
  by_cases h : d.txFifo.length < c.txDepth
  · simp only [Device.inFrame_txFifo, h, if_true]; rfl
  · simp only [Device.inFrame_txFifo, h, if_false]

/-- What the frame of WriteFifo does. -/
theorem writeFifoBody_ok {n : Byte} (hn : n ≠ 0) (buf : List Byte) (hl : payload n buf ≠ [])
    (h32 : (payload n buf).length ≤ 32) {s : State} (hm : s.cfg.mapped = true) (hx : s.port.left = none) :
    ∃ t, (writeFifoBody s.cfg n buf).run s = .ok () t ∧ Frame s t ∧
      t.trace = .csnDeassert :: (((payload n buf).map fun b => TraceEvent.xchg b none).reverse ++
        .xchg s.cfg.opcWTxPayload none :: .csnAssert :: s.trace) ∧
      (∀ k b i, t.dev.cell k b i = s.dev.cell k b i) ∧
      (s.cfg.present = true → Quiet s → t.dev = s.dev.load s.cfg (payload n buf)) := by
  refine ⟨framedAll false s.cfg.opcWTxPayload (payload n buf) s, writeFifoBody_run s.cfg hn buf hx, framedAll_frame _ _ _ _,
    by simp [framedAll, sentAll_trace_hidden], ?_, ?_⟩
  · intro k b i
    cases hp : s.cfg.present
    · rw [(framedAll_bus _ _ _ _).absent hp]
    · have hf : (sent false s.cfg.opcWTxPayload (opened s)).dev.frame = .txWrite [] := by
        rw [sent_opcode (by simpa using decodeOpcode_txPayload (mapped_opcodes hm)) (by simpa using hp) (opened_frame hp)]
      unfold framedAll
      rw [closed_cell, (sentAll_payload false _ [] (by simpa using hp) hf).2.1, sent_cell, opened_cell]
      intro _ _ _; rw [opened_frame hp]; simp
  · intro hp hq
    have hf : (sent false s.cfg.opcWTxPayload (opened s)).dev.frame = .txWrite [] := by
      rw [sent_opcode (by simpa using decodeOpcode_txPayload (mapped_opcodes hm)) (by simpa using hp) (opened_frame hp)]
    have hd : (sent false s.cfg.opcWTxPayload (opened s)).dev = s.dev.inFrame (.txWrite []) := by
      rw [(opcode_quiet hp hq false _).1]; simp only [Device.openFrame, decodeOpcode_txPayload (mapped_opcodes hm)]; rfl
    have hq2 : Quiet (sent false s.cfg.opcWTxPayload (opened s)) := sent_quiet (opened_quiet hq)
    unfold framedAll
    rw [closed_dev_quiet (by simpa using hp) ((sentAll_bus _ _ _).quiet hq2).1,
      (sentAll_payload false _ [] (by simpa using hp) hf).2.2 hq2, hd, Device.inFrame_inFrame, List.nil_append]
    simp only [Device.deselect, Device.commit, Device.inFrame_frame, hl, if_false, Config.fifoMax, h32, if_true,
      sentAll_cfg, sent_cfg, opened_cfg]
    rw [appendPayload_inFrame]
    rfl

/-! ReadFifo (R182). -/

/-- The head of the receive FIFO gone (R257). -/
def Device.dropHead (d : Device) : Device := Device.inFrame .none { d with rxFifo := d.rxFifo.tail }

/-- What the frame of ReadFifo does. -/
theorem readFifoBody_ok {n : Byte} (hn : n ≠ 0) {s : State} (hm : s.cfg.mapped = true) (hx : s.port.left = none) :
    ∃ t st bytes, (readFifoBody s.cfg n).run s = .ok bytes t ∧ Frame s t ∧ bytes.length = n.toNat ∧
      t.trace = .csnDeassert :: ((bytes.map fun b => TraceEvent.xchg Config.dummy (some b)).reverse ++
        .xchg s.cfg.opcRRxPayload (some st) :: .csnAssert :: s.trace) ∧
      (∀ k b i, t.dev.cell k b i = s.dev.cell k b i) ∧
      (s.cfg.present = false → bytes = List.replicate n.toNat s.cfg.absentByte) ∧
      (s.cfg.present = true → Quiet s → t.dev = s.dev.dropHead ∧ st = s.dev.statusByte s.cfg ∧
        ∀ head rest, s.dev.rxFifo = head :: rest → ∀ k < n.toNat, k < head.length → bytes[k]? = head[k]?) := by
  have hlen := heardAll_length (List.replicate n.toNat Config.dummy) (sent true s.cfg.opcRRxPayload (opened s))
  rw [List.length_replicate] at hlen
  refine ⟨_, heard s.cfg.opcRRxPayload (opened s), _, readFifoBody_run s.cfg hn hx, framedAll_frame _ _ _ _, hlen, ?_, ?_, ?_, ?_⟩
  · have hz : ∀ (m : Nat) (l : List Byte), l.length = m →
        ((List.replicate m Config.dummy).zip l).map (fun p => TraceEvent.xchg p.1 (some p.2)) =
          l.map fun b => TraceEvent.xchg Config.dummy (some b) := by
      intro m l
      induction l generalizing m with
      | nil => intro h; subst h; rfl
      | cons x l ih => intro h; subst h; simp [List.replicate_succ, ih l.length rfl]
    simp only [framedAll, closed_trace, sentAll_trace_shown, hz _ _ hlen, sent_trace, opened_trace, if_true]
  · intro k b i
    cases hp : s.cfg.present
    · rw [(framedAll_bus _ _ _ _).absent hp]
    · have hf : (sent true s.cfg.opcRRxPayload (opened s)).dev.frame = .rxRead 0 := by
        rw [sent_opcode (by simpa using decodeOpcode_rxPayload (mapped_opcodes hm)) (by simpa using hp) (opened_frame hp)]
      unfold framedAll
      rw [closed_cell, (sentAll_read _ 0 (by simpa using hp) hf).2.1, sent_cell, opened_cell]
      intro _ _ _; rw [opened_frame hp]; simp
  · intro hp; rw [heardAll_absent _ (by simpa using hp)]; simp
  · intro hp hq
    have ho := opcode_quiet hp hq true s.cfg.opcRRxPayload
    have hf : (sent true s.cfg.opcRRxPayload (opened s)).dev.frame = .rxRead 0 := by
      rw [sent_opcode (by simpa using decodeOpcode_rxPayload (mapped_opcodes hm)) (by simpa using hp) (opened_frame hp)]
    have hd : (sent true s.cfg.opcRRxPayload (opened s)).dev = s.dev.inFrame (.rxRead 0) := by
      rw [ho.1]; simp only [Device.openFrame, decodeOpcode_rxPayload (mapped_opcodes hm)]; rfl
    have hq2 : Quiet (sent true s.cfg.opcRRxPayload (opened s)) := sent_quiet (opened_quiet hq)
    obtain ⟨h1, h2⟩ := (sentAll_read (List.replicate n.toNat Config.dummy) 0 (by simpa using hp) hf).2.2 hq2
    refine ⟨?_, ho.2, ?_⟩
    · unfold framedAll
      rw [closed_dev_quiet (by simpa using hp) ((sentAll_bus _ _ _).quiet hq2).1, h1, hd, Device.inFrame_inFrame]
      have hne : n.toNat ≠ 0 := fun e => hn (BitVec.eq_of_toNat_eq e)
      simp only [Device.deselect, Device.commit, Device.inFrame_frame, List.length_replicate, Nat.zero_add, hne, if_false]
      rfl
    · intro head rest hh k hk hkh
      have := h2 head rest (by rw [hd]; exact hh) k (by simpa using hk) (by simpa using hkh)
      simpa using this

end Sys2Proof.Machine
end

