-- ==== Sys2Proof/Laws/Calls.lean ====
section
/-! SUPPORT. What calling and serving an operation add around its body, and one lemma for each sub-operation of the
engine as its callers see it. -/

namespace Sys2Proof.Machine

/-- An operation's body ran to its return: bus-select is deasserted, the sequencer stayed inside the operation. -/
structure Work (s t : State) : Prop extends Kept s t where
  csn : t.csn = .deasserted
  callers : ∀ q, SameCallers q s.seq → SameCallers q t.seq

theorem Frame.work {s t : State} (h : Frame s t) : Work s t := ⟨h.toKept, h.csn, h.callers⟩

/-- A called operation returned: the caller's sequencer has gone on by one action. -/
structure Called (s t : State) : Prop extends Kept s t where
  csn : t.csn = .deasserted
  seq : t.seq = advance s.seq

theorem Called.work {s t : State} (h : Called s t) : Work s t :=
  ⟨h.toKept, h.csn, fun q hq => by rw [h.seq]; exact hq.advance⟩

theorem Work.trans {s t u : State} (h : Work s t) (k : Work t u) : Work s u :=
  ⟨h.toKept.trans k.toKept, k.csn, fun q hq => k.callers q (h.callers q hq)⟩

/-- A change of the sequencer alone. -/
theorem Kept.ofSeq (s : State) (q : List Position) : Kept s { s with seq := q } := (Bus.ofSeq s q).toKept

theorem call_ok {α : Type} {task : Task} {m : Eng α} {s t : State} {v : α} (h : m.run (s.entering task) = .ok v t) :
    (call task m).run s = .ok v t.leaving := by rw [call_run, h]; rfl

theorem Work.called {task : Task} {s t : State} (h : Work (s.entering task) t) : Called s t.leaving := by
  refine ⟨(Kept.ofSeq s _).trans (h.toKept.trans (Kept.ofSeq t _)), h.csn, ?_⟩
  have := (h.callers _ (SameCallers.start (p := Position.mk task 0 Locals.start) (r := s.seq))).popped
  exact this

/-- An operation presented to an idle engine and run to its return. -/
theorem serve_ok {task : Task} {m : Eng Reply} {s t : State} {r : Reply} (hs : s.seq = [])
    (h : m.run (s.unanswered.entering task) = .ok r t)
    (hc : SameCallers (s.unanswered.entering task).seq t.seq) :
    serve task m s = .next (finishOperation r t.leaving) ∧ (finishOperation r t.leaving).seq = [] := by
  refine ⟨?_, ?_⟩
  · simp only [serve, hs, ne_eq, not_true_eq_false, if_false]
    rw [call_ok h]; rfl
  · show popped t.seq = []
    rw [hc.popped]; simp [popped, hs, advance]

/-- The state a body starts in, when an idle engine serves its operation. -/
abbrev begun (task : Task) (s : State) : State := s.unanswered.entering task

theorem begun_callers (task : Task) (s : State) : SameCallers (begun task s).seq (begun task s).seq := .start

/-- An operation served to its return, its body being `Work`. -/
theorem serve_work {task : Task} {m : Eng Reply} {s t : State} {r : Reply} (hs : s.seq = [])
    (h : m.run (begun task s) = .ok r t) (w : Work (begun task s) t) :
    serve task m s = .next (finishOperation r t.leaving) ∧ (finishOperation r t.leaving).seq = [] :=
  serve_ok hs h (w.callers _ (begun_callers task s))

theorem guarded_ok {why : State → Option RefuseReason} {m : Eng Reply} {s : State} (h : why s = none) :
    (guarded why m).run s = m.run s := by rw [guarded_run, h]; rfl

/-! The operations as their callers see them. -/

theorem readRegister_ok (a : Byte) (ha : a ≤ Config.regHi) {s : State} (hx : s.port.left = none) :
    ∃ t st v, (readRegister a).run s = .ok v t ∧ Called s t ∧ t.cache = s.cache ∧
      t.trace = .csnDeassert :: .xchg Config.dummy (some v) :: .xchg (readOpcode a) (some st) :: .csnAssert :: s.trace ∧
      t.port.shiftIn = v ∧ (∀ k b i, t.dev.cell k b i = s.dev.cell k b i) ∧
      (s.cfg.present = false → v = s.cfg.absentByte) ∧
      (s.cfg.present = true → a ≠ s.cfg.regStatus → ∀ b, s.dev.cell s.cfg a 0 = some (.known b) → v = b) ∧
      (s.cfg.present = true → Quiet s → t.dev = s.dev.inFrame .none ∧ st = s.dev.statusByte s.cfg ∧
        (a = s.cfg.regStatus → ∀ b, s.dev.cell s.cfg a 0 = some (.known b) → v = s.dev.statusByte s.cfg)) := by
  obtain ⟨t, st, v, hr, hf, h⟩ := readRegisterBody_ok a ha (s := s.entering (.op (.readRegister a))) hx
  exact ⟨t.leaving, st, v, call_ok hr, hf.work.called, hf.cache, h⟩

theorem writeRegister_ok (a d : Byte) (ha : a ≤ Config.regHi) {s : State} (hx : s.port.left = none) :
    ∃ t, (writeRegister a d).run s = .ok () t ∧ Called s t ∧ t.cache = s.cache ∧
      t.trace = .csnDeassert :: .xchg d none :: .xchg (writeOpcode a) none :: .csnAssert :: s.trace ∧
      (s.cfg.present = true → ∀ b i, t.dev.cell s.cfg b i = (s.dev.store s.cfg a 0 d).cell s.cfg b i) ∧
      (s.cfg.present = true → Quiet s → t.dev = (s.dev.store s.cfg a 0 d).inFrame .none) := by
  obtain ⟨t, hr, hf, h⟩ := writeRegisterBody_ok a d ha (s := s.entering (.op (.writeRegister a d))) hx
  exact ⟨t.leaving, call_ok hr, hf.work.called, hf.cache, h⟩

theorem writeCommand_ok (c : Byte) {s : State} (hm : s.cfg.mapped = true)
    (hc : c = s.cfg.opcFlushTx ∨ c = s.cfg.opcFlushRx ∨ c = s.cfg.opcNop) (hx : s.port.left = none) :
    ∃ t st, (writeCommand c).run s = .ok st t ∧ Called s t ∧ t.cache = s.cache ∧
      t.trace = .csnDeassert :: .xchg c (some st) :: .csnAssert :: s.trace ∧
      (∀ k b i, t.dev.cell k b i = s.dev.cell k b i) ∧
      (s.cfg.present = false → st = s.cfg.absentByte) ∧
      (s.cfg.present = true → Quiet s →
        t.dev = (s.dev.command s.cfg c).inFrame .none ∧ st = s.dev.statusByte s.cfg) := by
  obtain ⟨t, st, hr, hf, h⟩ := writeCommandBody_ok c (s := s.entering (.op (.writeCommand c))) hm hc hx
  exact ⟨t.leaving, st, call_ok hr, hf.work.called, hf.cache, h⟩

/-- A plain write of the status register stores nothing and clears the flags whose bits are 1 (R256), unless the
address is stuck. -/
theorem store_status {c : Cfg} (hm : c.mapped = true) (h : c.regStatus ∉ c.stuck) (v : Byte) (d : Device) :
    d.store c c.regStatus 0 v = d.clearFlags c v := by
  simp only [Device.store, h, named_writable hm regStatus_named, if_false, if_true]

theorem cell_store_status {c : Cfg} (hm : c.mapped = true) (v : Byte) (d : Device) (k : Cfg) (a : Byte) (i : Nat) :
    (d.store c c.regStatus 0 v).cell k a i = d.cell k a i := by
  by_cases h : c.regStatus ∈ c.stuck
  · rw [Device.store_stuck h]
  · rw [store_status hm h, Device.cell_clearFlags]

/-- ClearFlags (42_packet_io.md R186). -/
theorem clearFlagsBody_ok (m : Byte) {s : State} (hm : s.cfg.mapped = true) (hx : s.port.left = none) :
    ∃ t, (clearFlagsBody s.cfg m).run s = .ok () t ∧ Called s t ∧ t.cache = s.cache ∧
      t.trace = .csnDeassert :: .xchg (m &&& s.cfg.flagsAll) none :: .xchg (writeOpcode s.cfg.regStatus) none ::
        .csnAssert :: s.trace ∧
      (∀ b i, t.dev.cell s.cfg b i = s.dev.cell s.cfg b i) ∧
      (s.cfg.present = true → Quiet s → t.dev = (s.dev.store s.cfg s.cfg.regStatus 0 (m &&& s.cfg.flagsAll)).inFrame .none) := by
  obtain ⟨t, hr, hc, hca, ht, hcell, hq⟩ :=
    writeRegister_ok s.cfg.regStatus (m &&& s.cfg.flagsAll) (named_le hm regStatus_named) hx
  refine ⟨t, hr, hc, hca, ht, fun b i => ?_, hq⟩
  cases hp : s.cfg.present
  · rw [hc.absent hp]
  · rw [hcell hp, cell_store_status hm]

theorem clearFlags_ok (m : Byte) {s : State} (hm : s.cfg.mapped = true) (hx : s.port.left = none) :
    ∃ t, (clearFlags s.cfg m).run s = .ok () t ∧ Called s t ∧ t.cache = s.cache ∧
      t.trace = .csnDeassert :: .xchg (m &&& s.cfg.flagsAll) none :: .xchg (writeOpcode s.cfg.regStatus) none ::
        .csnAssert :: s.trace ∧
      (∀ b i, t.dev.cell s.cfg b i = s.dev.cell s.cfg b i) ∧
      (s.cfg.present = true → Quiet s → t.dev = (s.dev.store s.cfg s.cfg.regStatus 0 (m &&& s.cfg.flagsAll)).inFrame .none) := by
  obtain ⟨t, hr, hc, hca, h⟩ := clearFlagsBody_ok m (s := s.entering (.op (.clearFlags m))) hm hx
  exact ⟨t.leaving, call_ok hr, hc.work.called, hca, h⟩

/-- A byte stored in a register that takes it is read back; what a dropped store leaves is what was there. -/
theorem cell_store_takes_eq {c : Cfg} {a v : Byte} {d : Device} (hs : a ∉ c.stuck) (hr : a ∉ c.readOnlyRegs)
    (hst : a ≠ c.regStatus) (ha : a ≤ Config.regHi) (hl : legalValue c a v = true ∨ isFiveByte c a = true) :
    (d.store c a 0 v).cell c a 0 = some (.known v) := by
  have hl' : isFiveByte c a = true ∧ 0 < Config.addrLen ∨ isFiveByte c a = false ∧ 0 = 0 ∧ legalValue c a v = true := by
    cases h5 : isFiveByte c a
    · rcases hl with h | h
      · exact .inr ⟨rfl, rfl, h⟩
      · rw [h5] at h; cases h
    · exact .inl ⟨rfl, by decide⟩
  rw [cell_store_takes hs hr hst hl', Device.cell_setCell]
  have hn : a.toNat < 30 := by
    have := BitVec.le_def.mp ha
    have h2 : Config.regHi.toNat = 29 := by decide
    omega
  obtain ⟨x, hx⟩ := fileGet_isSome d.regs hn
  simp [Device.cell, hx]

/-- WriteValidated (41_transceiver_config.md R156). -/
theorem writeValidatedBody_ok (a d : Byte) (ha : a ≤ Config.regHi) {s : State} (hx : s.port.left = none) :
    ∃ t st v, (writeValidatedBody a d).run s = .ok (decide (v ≠ d)) t ∧ Work s t ∧
      t.cache = (if v = d then fileSet s.cache a.toNat (some d) else s.cache) ∧
      t.trace = .csnDeassert :: .xchg Config.dummy (some v) :: .xchg (readOpcode a) (some st) :: .csnAssert ::
        .csnDeassert :: .xchg d none :: .xchg (writeOpcode a) none :: .csnAssert :: s.trace ∧
      (s.cfg.present = false → v = s.cfg.absentByte) ∧
      (s.cfg.present = true → ∀ b i, t.dev.cell s.cfg b i = (s.dev.store s.cfg a 0 d).cell s.cfg b i) ∧
      (s.cfg.present = true → a ≠ s.cfg.regStatus → ∀ b, (s.dev.store s.cfg a 0 d).cell s.cfg a 0 = some (.known b) → v = b) ∧
      (s.cfg.present = true → Quiet s → t.dev = (s.dev.store s.cfg a 0 d).inFrame .none) := by
  obtain ⟨t1, hr1, hc1, hca1, ht1, hcell1, hq1⟩ := writeRegister_ok a d ha hx
  obtain ⟨t2, st, v, hr2, hc2, hca2, ht2, _, hcell2, habs2, hval2, hq2⟩ :=
    readRegister_ok a ha (hc1.complete hx)
  rw [hc1.cfg] at habs2 hval2 hq2
  have hw : Work s t2 := hc1.work.trans hc2.work
  have hcells : s.cfg.present = true → ∀ b i, t2.dev.cell s.cfg b i = (s.dev.store s.cfg a 0 d).cell s.cfg b i :=
    fun hp b i => (hcell2 _ b i).trans (hcell1 hp b i)
  have habs : s.cfg.present = false → v = s.cfg.absentByte := fun h => by
    rw [habs2 h]
  have hval : s.cfg.present = true → a ≠ s.cfg.regStatus →
      ∀ b, (s.dev.store s.cfg a 0 d).cell s.cfg a 0 = some (.known b) → v = b := fun hp hst b hb =>
    hval2 hp hst b (by rw [hcell1 hp]; exact hb)
  have hquiet : s.cfg.present = true → Quiet s → t2.dev = (s.dev.store s.cfg a 0 d).inFrame .none := fun hp hq => by
    rw [(hq2 hp (hc1.quiet hq).1).1, hq1 hp hq, Device.inFrame_inFrame]
  by_cases hvd : v = d
  · refine ⟨(t2.setCached a d).advanced, st, v, ?_, ?_, ?_, ?_, habs, hcells, hval, hquiet⟩
    · simp only [writeValidatedBody, EStateM.run_bind, hr1, hr2, hvd, if_true, internal_run, EStateM.run_pure]
      simp
    · refine ⟨hw.toKept.trans ⟨rfl, rfl, rfl, rfl, rfl, rfl, rfl, id, fun h => ⟨h, rfl, rfl, rfl⟩, fun _ => rfl⟩, hw.csn, ?_⟩
      intro q hq; exact (hw.callers q hq).advance
    · simp [hvd, hca2, hca1]
    · simp [ht2, ht1]
  · refine ⟨t2, st, v, ?_, hw, ?_, ?_, habs, hcells, hval, hquiet⟩
    · simp only [writeValidatedBody, EStateM.run_bind, hr1, hr2, hvd, if_false, EStateM.run_pure]
      simp [hvd]
    · simp [hvd, hca2, hca1]
    · simp [ht2, ht1]

theorem writeValidated_ok (a d : Byte) (ha : a ≤ Config.regHi) {s : State} (hx : s.port.left = none) :
    ∃ t st v, (writeValidated a d).run s = .ok (decide (v ≠ d)) t ∧ Called s t ∧
      t.cache = (if v = d then fileSet s.cache a.toNat (some d) else s.cache) ∧
      t.trace = .csnDeassert :: .xchg Config.dummy (some v) :: .xchg (readOpcode a) (some st) :: .csnAssert ::
        .csnDeassert :: .xchg d none :: .xchg (writeOpcode a) none :: .csnAssert :: s.trace ∧
      (s.cfg.present = false → v = s.cfg.absentByte) ∧
      (s.cfg.present = true → ∀ b i, t.dev.cell s.cfg b i = (s.dev.store s.cfg a 0 d).cell s.cfg b i) ∧
      (s.cfg.present = true → a ≠ s.cfg.regStatus → ∀ b, (s.dev.store s.cfg a 0 d).cell s.cfg a 0 = some (.known b) → v = b) ∧
      (s.cfg.present = true → Quiet s → t.dev = (s.dev.store s.cfg a 0 d).inFrame .none) := by
  obtain ⟨t, st, v, hr, hw, h⟩ := writeValidatedBody_ok a d ha (s := s.entering (.op (.writeValidated a d))) hx
  exact ⟨t.leaving, st, v, call_ok hr, hw.called, h⟩

/-- The cache after a validated write, entry by entry. -/
theorem cached_validated {s t : State} {a d v : Byte} (ha : a ≤ Config.regHi)
    (h : t.cache = (if v = d then fileSet s.cache a.toNat (some d) else s.cache)) (b : Byte) :
    t.cached b = if v = d ∧ b = a then some d else s.cached b := by
  by_cases hvd : v = d
  · rw [if_pos hvd] at h
    have := State.cached_setCached s a b d
    rw [if_pos ha] at this
    have e : t.cached b = (s.setCached a d).cached b := State.cached_congr h b
    rw [e, this]
    by_cases hb : a = b
    · simp [hvd, hb]
    · simp [hvd, hb, Ne.symm hb]
  · rw [if_neg hvd] at h
    rw [State.cached_congr h]; simp [hvd]

/-- SetModeBit (43_mode_controller.md R212). -/
theorem setModeBitBody_run (m : Byte) (s : State) :
    (setModeBitBody s.cfg m).run s = (writeValidated s.cfg.regConfig (s.modeByte m)).run s := by
  simp [setModeBitBody, EStateM.run_bind]

/-- The byte SetModeBit writes. -/
theorem modeByte_eq {s : State} {c : Byte} (h : s.cached s.cfg.regConfig = some c) (m : Byte) :
    s.modeByte m = withBit c s.cfg.bitPrimRx (m.getLsbD 0) := by
  rw [State.modeByte, h, Option.getD_some, setBit_eq]

end Sys2Proof.Machine
end

