-- ==== Sys2Proof/Laws/Composite.lean ====
section
/-! SUPPORT. The sub-operations of the composite operations as their callers see them, and the actions of the enable
line. -/

namespace Sys2Proof.Machine

/-- An instruction served to its return. -/
theorem returns_of {i : Instr} {task : Task} {m : Eng Reply} {s t : State} {r : Reply} (he : exec i s = serve task m s)
    (hs : s.seq = []) (h : m.run (begun task s) = .ok r t) (hc : SameCallers (begun task s).seq t.seq) :
    Returns i s r (finishOperation r t.leaving) := by
  obtain ⟨h1, h2⟩ := serve_ok hs h hc
  exact ⟨he.trans h1, h2, rfl⟩

theorem Work.inside {task : Task} {s t : State} (w : Work (begun task s) t) : SameCallers (begun task s).seq t.seq :=
  w.callers _ (begun_callers task s)

/-! The checks of an operation, passed. -/

theorem addressRefusal_none {a : Byte} (ha : a ≤ Config.regHi) (s : State) : addressRefusal a s = none := by
  have : addressBad a = false := by simpa [addressBad] using BitVec.not_lt.mpr ha
  simp [addressRefusal, firstReason, this]

theorem lengthRefusal_none {n : Byte} (hn : n ≤ 32) (s : State) : lengthRefusal n s = none := by
  have : lengthBad n = false := by
    have := BitVec.le_def.mp hn
    simpa [lengthBad] using this
  simp [lengthRefusal, firstReason, this]

theorem cacheRefusal_none {s : State} (h : s.initialised = true) : cacheRefusal s = none := by
  simp [cacheRefusal, firstReason, State.notInitialised, h]

theorem startRefusal_none {n : Byte} {s : State} (h : s.initialised = true) (hce : s.ce = .low) (hn : n ≤ 32) :
    startRefusal n s = none := by
  have : lengthBad n = false := by
    have := BitVec.le_def.mp hn
    simpa [lengthBad] using this
  simp [startRefusal, firstReason, State.notInitialised, State.enableHigh, h, hce, this]

theorem initiateRefusal_none {s : State} (hce : s.ce = .low) : initiateRefusal s = none := by
  simp [initiateRefusal, firstReason, State.enableHigh, hce]

/-! SetModeBit (43_mode_controller.md R212). -/

/-- What SetModeBit does on a node whose cache holds a configuration byte. -/
theorem setModeBitBody_ok (m : Byte) {s : State} (hm : s.cfg.mapped = true) (hx : s.port.left = none) {c : Byte} (hc : s.cached s.cfg.regConfig = some c) :
    ∃ t st v, (setModeBitBody s.cfg m).run s = .ok (decide (v ≠ withBit c s.cfg.bitPrimRx (m.getLsbD 0))) t ∧ Called s t ∧
      t.cache = (if v = withBit c s.cfg.bitPrimRx (m.getLsbD 0) then
        fileSet s.cache s.cfg.regConfig.toNat (some (withBit c s.cfg.bitPrimRx (m.getLsbD 0))) else s.cache) ∧
      t.trace = .csnDeassert :: .xchg Config.dummy (some v) :: .xchg (readOpcode s.cfg.regConfig) (some st) :: .csnAssert ::
        .csnDeassert :: .xchg (withBit c s.cfg.bitPrimRx (m.getLsbD 0)) none :: .xchg (writeOpcode s.cfg.regConfig) none ::
        .csnAssert :: s.trace ∧
      (s.cfg.present = false → v = s.cfg.absentByte) ∧
      (s.cfg.present = true → ∀ b i, t.dev.cell s.cfg b i =
        (s.dev.store s.cfg s.cfg.regConfig 0 (withBit c s.cfg.bitPrimRx (m.getLsbD 0))).cell s.cfg b i) ∧
      (s.cfg.present = true → ∀ b,
        (s.dev.store s.cfg s.cfg.regConfig 0 (withBit c s.cfg.bitPrimRx (m.getLsbD 0))).cell s.cfg s.cfg.regConfig 0 = some (.known b) →
          v = b) ∧
      (s.cfg.present = true → Quiet s →
        t.dev = (s.dev.store s.cfg s.cfg.regConfig 0 (withBit c s.cfg.bitPrimRx (m.getLsbD 0))).inFrame .none) := by
  obtain ⟨t, st, v, hr, hcl, hca, ht, ha, hcell, hval, hq⟩ :=
    writeValidated_ok s.cfg.regConfig (withBit c s.cfg.bitPrimRx (m.getLsbD 0)) (named_le hm regConfig_named) hx
  exact ⟨t, st, v, by rw [setModeBitBody_run, modeByte_eq hc, hr], hcl, hca, ht, ha, hcell,
    fun hp => hval hp (config_ne_status hm), hq⟩

/-- The same as a sub-operation. -/
theorem setModeBit_ok (m : Byte) {s : State} (hm : s.cfg.mapped = true) (hx : s.port.left = none) {c : Byte} (hc : s.cached s.cfg.regConfig = some c) :
    ∃ t st v, (setModeBit s.cfg m).run s = .ok (decide (v ≠ withBit c s.cfg.bitPrimRx (m.getLsbD 0))) t ∧ Called s t ∧
      t.cache = (if v = withBit c s.cfg.bitPrimRx (m.getLsbD 0) then
        fileSet s.cache s.cfg.regConfig.toNat (some (withBit c s.cfg.bitPrimRx (m.getLsbD 0))) else s.cache) ∧
      t.trace = .csnDeassert :: .xchg Config.dummy (some v) :: .xchg (readOpcode s.cfg.regConfig) (some st) :: .csnAssert ::
        .csnDeassert :: .xchg (withBit c s.cfg.bitPrimRx (m.getLsbD 0)) none :: .xchg (writeOpcode s.cfg.regConfig) none ::
        .csnAssert :: s.trace ∧
      (s.cfg.present = false → v = s.cfg.absentByte) ∧
      (s.cfg.present = true → ∀ b i, t.dev.cell s.cfg b i =
        (s.dev.store s.cfg s.cfg.regConfig 0 (withBit c s.cfg.bitPrimRx (m.getLsbD 0))).cell s.cfg b i) ∧
      (s.cfg.present = true → ∀ b,
        (s.dev.store s.cfg s.cfg.regConfig 0 (withBit c s.cfg.bitPrimRx (m.getLsbD 0))).cell s.cfg s.cfg.regConfig 0 = some (.known b) →
          v = b) ∧
      (s.cfg.present = true → Quiet s →
        t.dev = (s.dev.store s.cfg s.cfg.regConfig 0 (withBit c s.cfg.bitPrimRx (m.getLsbD 0))).inFrame .none) := by
  obtain ⟨t, st, v, hr, hcl, h⟩ := setModeBitBody_ok m (s := s.entering (.op (.setModeBit m))) hm hx hc
  exact ⟨t.leaving, st, v, call_ok hr, hcl.work.called, h⟩

/-- On a device that takes the write of a legal configuration byte the store is that byte and nothing else. -/
theorem store_config {c : Cfg} (hm : c.mapped = true) {v : Byte} {d : Device} (h : c.regConfig ∉ c.stuck)
    (hv : legalValue c c.regConfig v = true) : d.store c c.regConfig 0 v = d.setCell c c.regConfig (.known v) 0 :=
  cell_store_takes h (named_writable hm regConfig_named) (config_ne_status hm) (.inr ⟨config_one_byte hm, rfl, hv⟩)

/-- The mode-bit write is legal when the cached byte is. -/
theorem modeByte_legal {c : Cfg} {v : Byte} (b : Bool) (h : legalValue c c.regConfig v = true) :
    legalValue c c.regConfig (withBit v c.bitPrimRx b) = true := by
  rw [legalValue_config] at h ⊢
  exact onlyBits_withBit (by simp [BitPositions.configBits]) b h

/-! FIFOs (42_packet_io.md R181 to R185). -/

theorem writeFifo_ok {n : Byte} (hn : n ≠ 0) (buf : List Byte) (hl : payload n buf ≠ []) (h32 : (payload n buf).length ≤ 32)
    {s : State} (hm : s.cfg.mapped = true) (hx : s.port.left = none) :
    ∃ t, (writeFifo s.cfg n buf).run s = .ok () t ∧ Called s t ∧ t.cache = s.cache ∧
      t.trace = .csnDeassert :: (((payload n buf).map fun b => TraceEvent.xchg b none).reverse ++
        .xchg s.cfg.opcWTxPayload none :: .csnAssert :: s.trace) ∧
      (∀ k b i, t.dev.cell k b i = s.dev.cell k b i) ∧
      (s.cfg.present = true → Quiet s → t.dev = s.dev.load s.cfg (payload n buf)) := by
  obtain ⟨t, hr, hf, h⟩ := writeFifoBody_ok hn buf hl h32 (s := s.entering (.op (.writeFifo n buf))) hm hx
  exact ⟨t.leaving, call_ok hr, hf.work.called, hf.cache, h⟩

/-- No byte, no activity (R183). -/
theorem writeFifo_zero (buf : List Byte) (s : State) :
    (writeFifo s.cfg 0 buf).run s = .ok () { s with seq := advance s.seq } := rfl

theorem readFifo_ok {n : Byte} (hn : n ≠ 0) {s : State} (hm : s.cfg.mapped = true) (hx : s.port.left = none) :
    ∃ t st bytes, (readFifo s.cfg n).run s = .ok bytes t ∧ Called s t ∧ t.cache = s.cache ∧ bytes.length = n.toNat ∧
      t.trace = .csnDeassert :: ((bytes.map fun b => TraceEvent.xchg Config.dummy (some b)).reverse ++
        .xchg s.cfg.opcRRxPayload (some st) :: .csnAssert :: s.trace) ∧
      (∀ k b i, t.dev.cell k b i = s.dev.cell k b i) ∧
      (s.cfg.present = false → bytes = List.replicate n.toNat s.cfg.absentByte) ∧
      (s.cfg.present = true → Quiet s → t.dev = s.dev.dropHead ∧ st = s.dev.statusByte s.cfg ∧
        ∀ head rest, s.dev.rxFifo = head :: rest → ∀ k < n.toNat, k < head.length → bytes[k]? = head[k]?) := by
  obtain ⟨t, st, bytes, hr, hf, hlen, h⟩ := readFifoBody_ok hn (s := s.entering (.op (.readFifo n))) hm hx
  exact ⟨t.leaving, st, bytes, call_ok hr, hf.work.called, hf.cache, hlen, h⟩

theorem flushTx_ok {s : State} (hm : s.cfg.mapped = true) (hx : s.port.left = none) :
    ∃ t st, (flushTx s.cfg).run s = .ok st t ∧ Called s t ∧ t.cache = s.cache ∧
      t.trace = .csnDeassert :: .xchg s.cfg.opcFlushTx (some st) :: .csnAssert :: s.trace ∧
      (∀ k b i, t.dev.cell k b i = s.dev.cell k b i) ∧
      (s.cfg.present = false → st = s.cfg.absentByte) ∧
      (s.cfg.present = true → Quiet s →
        t.dev = (s.dev.command s.cfg s.cfg.opcFlushTx).inFrame .none ∧ st = s.dev.statusByte s.cfg) := by
  obtain ⟨t, st, hr, hf, hca, h⟩ := writeCommand_ok s.cfg.opcFlushTx (s := s.entering (.op .flushTx)) hm (.inl rfl) hx
  exact ⟨t.leaving, st, call_ok hr, hf.work.called, hca, h⟩

theorem flushRx_ok {s : State} (hm : s.cfg.mapped = true) (hx : s.port.left = none) :
    ∃ t st, (flushRx s.cfg).run s = .ok st t ∧ Called s t ∧ t.cache = s.cache ∧
      t.trace = .csnDeassert :: .xchg s.cfg.opcFlushRx (some st) :: .csnAssert :: s.trace ∧
      (∀ k b i, t.dev.cell k b i = s.dev.cell k b i) ∧
      (s.cfg.present = false → st = s.cfg.absentByte) ∧
      (s.cfg.present = true → Quiet s →
        t.dev = (s.dev.command s.cfg s.cfg.opcFlushRx).inFrame .none ∧ st = s.dev.statusByte s.cfg) := by
  obtain ⟨t, st, hr, hf, hca, h⟩ := writeCommand_ok s.cfg.opcFlushRx (s := s.entering (.op .flushRx)) hm (.inr (.inl rfl)) hx
  exact ⟨t.leaving, st, call_ok hr, hf.work.called, hca, h⟩

/-- Whatever arrives before the command, a FLUSH_RX frame with the line low leaves the receive FIFO empty
(43_mode_controller.md R215). -/
theorem receive_low (c : Cfg) (fresh : Nat → Byte) (f : AirFrame) (aw : Byte) (d : Device) :
    d.receive c fresh .low f aw = d := by
  simp [Device.receive, Device.listening]

/-- With the line low a gap leaves the receive FIFO and the data-received flag alone. -/
theorem gap_low {s : State} (h : s.ce = .low) :
    (gap s).dev.rxFifo = s.dev.rxFifo ∧ (gap s).dev.dataReceived = s.dev.dataReceived := by
  have key : ∀ t : State, t.ce = .low → (∀ e, (applyEvent e t).dev.rxFifo = t.dev.rxFifo ∧
      (applyEvent e t).dev.dataReceived = t.dev.dataReceived) := by
    intro t ht e
    cases e with
    | transmitComplete =>
      simp only [applyEvent, transmitComplete]
      split
      · cases t.dev.burst <;> exact ⟨rfl, rfl⟩
      · exact ⟨rfl, rfl⟩
    | airAdd f => simp only [applyEvent]; split <;> exact ⟨rfl, rfl⟩
    | airOffer i aw =>
      simp only [applyEvent, airOffer, offerFrame]
      split
      · exact ⟨rfl, rfl⟩
      · simp only [ht, receive_low, ite_self, and_self]
    | airDrop i => exact ⟨rfl, rfl⟩
    | tick => simp only [applyEvent, tick]; split <;> exact ⟨rfl, rfl⟩
    | present b => simp only [applyEvent, presentInbound]; split_ifs <;> exact ⟨rfl, rfl⟩
  have := gap_keeps (I := fun t => t.ce = .low ∧ t.dev.rxFifo = s.dev.rxFifo ∧ t.dev.dataReceived = s.dev.dataReceived)
    (fun t q h => h) (fun e t ht => ⟨(applyEvent_untouched e t).ce.trans ht.1, (key t ht.1 e).1.trans ht.2.1,
      (key t ht.1 e).2.trans ht.2.2⟩) (s := s) ⟨h, rfl, rfl⟩
  exact this.2

/-! The enable line (42_packet_io.md R192, 45_device_interpreter.md R269). -/

/-- A CeHigh action moves no cell. -/
theorem raised_cell (s : State) (c : Cfg) (a : Byte) (i : Nat) : s.raised.dev.cell c a i = s.dev.cell c a i := by
  cases h : s.ce
  · rw [State.raised_high h]
  · rw [State.raised_low h]
    show (s.onDevice _).cell c a i = _
    unfold State.onDevice
    split
    · exact Device.cell_trigger _ _ _ _ _ _
    · rfl

/-- Nor does it do anything to no device. -/
theorem raised_absent {s : State} (h : s.cfg.present = false) : s.raised.dev = s.dev := by
  cases hc : s.ce
  · rw [State.raised_high hc]
  · rw [State.raised_low hc]; exact onDevice_absent _ h

/-- A device in receive mode triggers nothing. -/
theorem trigger_receive {c : Cfg} {fresh : Nat → Byte} {d : Device} {b : Byte}
    (h : d.cell c c.regConfig 0 = some (.known b)) (hb : b.getLsbD c.bitPrimRx = true) : d.trigger c fresh = d := by
  rcases trigger_cases c fresh d with h1 | ⟨_, _, _, _, _, h2, _⟩
  · exact h1
  · simp only [Device.primRx, Device.sample, h, Option.getD_some, RegCell.read] at h2
    rw [hb] at h2; cases h2

end Sys2Proof.Machine
end

