-- ==== Sys2Proof/Laws/Bursts.lean ====
section
/-! SUPPORT. The stores of a register-write frame of several data bytes (45_device_interpreter.md R255): another
register keeps its bytes, a 5-byte register takes them in order, any other register is left unsettled. -/

namespace Sys2Proof.Machine

/-- The stores of one frame leave every other register alone. -/
theorem storeAll_other (c : Cfg) {a b : Byte} (hb : b ≠ a) (l : List Byte) (i : Nat) (d : Device) (j : Nat) :
    (d.storeAll c a i l).cell c b j = d.cell c b j := by
  induction l generalizing i d with
  | nil => rfl
  | cons x l ih => rw [Device.storeAll, ih, Device.cell_store_ne _ (Ne.symm hb)]

/-- The two registers of five bytes. -/
theorem five_cases {c : Cfg} {a : Byte} (h : isFiveByte c a = true) : a = c.regTxAddr ∨ a = c.regRxAddrP0 := of_decide_eq_true h

/-- Both are writable registers of the map. -/
theorem five_facts {c : Cfg} (hm : c.mapped = true) {a : Byte} (h : isFiveByte c a = true) :
    a ∉ c.readOnlyRegs ∧ a ≠ c.regStatus ∧ a ≤ Config.regHi := by
  rcases five_cases h with rfl | rfl
  · exact ⟨named_writable hm regTxAddr_named, txAddr_ne_status hm, named_le hm regTxAddr_named⟩
  · exact ⟨named_writable hm regRxAddrP0_named, rxAddrP0_ne_status hm, named_le hm regRxAddrP0_named⟩

/-- An address of the file, as an index. -/
theorem address_lt {a : Byte} (ha : a ≤ Config.regHi) : a.toNat < 30 := by
  have := BitVec.le_def.mp ha
  have h2 : Config.regHi.toNat = 29 := by decide
  omega

/-- They have five bytes. -/
theorem cell_five {c : Cfg} (hm : c.mapped = true) {a : Byte} (h : isFiveByte c a = true) (d : Device) (i : Nat) (hi : i < 5) :
    ∃ x, d.cell c a i = some x := by
  cases i with
  | zero => exact fileGet_isSome _ (address_lt (five_facts hm h).2.2)
  | succ i =>
    simp only [Device.cell]
    rcases five_cases h with rfl | rfl
    · rw [if_pos rfl]; exact fileGet_isSome _ (by omega)
    · rw [if_neg (rxAddrP0_ne_txAddr hm), if_pos rfl]; exact fileGet_isSome _ (by omega)

/-- They have no sixth byte. -/
theorem cell_five_out {c : Cfg} (hm : c.mapped = true) {a : Byte} (h : isFiveByte c a = true) (d : Device) (i : Nat) (hi : 5 ≤ i) :
    d.cell c a i = none := by
  cases i with
  | zero => omega
  | succ i =>
    simp only [Device.cell]
    rcases five_cases h with rfl | rfl
    · rw [if_pos rfl]; exact fileGet_eq_none _ (by omega)
    · rw [if_neg (rxAddrP0_ne_txAddr hm), if_pos rfl]; exact fileGet_eq_none _ (by omega)

/-- A 5-byte register takes the bytes of a frame in order, from byte `i` on (R255). -/
theorem storeAll_five {c : Cfg} (hm : c.mapped = true) {a : Byte} (h : isFiveByte c a = true) (hs : a ∉ c.stuck) (l : List Byte) (i : Nat)
    (d : Device) (hl : i + l.length ≤ 5) (j : Nat) :
    (d.storeAll c a i l).cell c a j = if i ≤ j ∧ j < i + l.length then (l[j - i]?).map RegCell.known else d.cell c a j := by
  induction l generalizing i d with
  | nil => rw [if_neg]; rfl; simp only [List.length_nil]; omega
  | cons x l ih =>
    simp only [List.length_cons] at hl
    rw [Device.storeAll, ih _ _ (by omega), cell_store_takes hs (five_facts hm h).1 (five_facts hm h).2.1 (.inl ⟨h, by show i < 5; omega⟩),
      Device.cell_setCell]
    obtain ⟨y, hy⟩ := cell_five hm h d i (by omega)
    by_cases h1 : i = j
    · subst h1
      rw [if_neg (by omega), if_pos ⟨rfl, rfl⟩, hy, if_pos (by simp)]; simp
    · by_cases h2 : i + 1 ≤ j ∧ j < i + 1 + l.length
      · rw [if_pos h2, if_pos (by simp only [List.length_cons]; omega)]
        rw [show j - i = (j - (i+1)) + 1 by omega]; simp
      · rw [if_neg h2, if_neg (by tauto), if_neg (by simp only [List.length_cons]; omega)]

/-- A data byte after the first, in a frame to a register of one byte, leaves it unsettled (R255; at a read-only address
log 36). -/
theorem storeAll_unsettles {c : Cfg} {a : Byte} (h5 : isFiveByte c a = false) (hs : a ∉ c.stuck) (ha : a ≤ Config.regHi)
    (l : List Byte) (i : Nat) (hi : i ≠ 0) (d : Device) (hl : l ≠ [] ∨ d.cell c a 0 = some .unsettled) :
    (d.storeAll c a i l).cell c a 0 = some .unsettled := by
  induction l generalizing i d with
  | nil => rcases hl with h | h; exact absurd rfl h; exact h
  | cons x l ih =>
    rw [Device.storeAll]
    apply ih _ (by omega)
    right
    obtain ⟨y, hy⟩ := fileGet_isSome d.regs (address_lt ha)
    have : d.store c a i x = d.unsettle c a := by
      refine store_unsettles hs ?_
      by_cases hr : a ∈ c.readOnlyRegs
      · exact .inl ⟨hr, hi⟩
      · by_cases hst : a = c.regStatus
        · exact .inr ⟨hr, .inl ⟨hst, hi⟩⟩
        · exact .inr ⟨hr, .inr (.inr ⟨hst, h5, by simp [hi]⟩)⟩
    rw [this, Device.cell_unsettle, if_pos rfl]
    simp [Device.cell, hy]

end Sys2Proof.Machine
end

