-- ==== Sys2Proof/Laws/InitValues.lean ====
section
/-! SUPPORT. The values Init writes: they are those the spec tabulates (`initValues`; 41_transceiver_config.md R161, R162)
under every layout, and each is legal for its register (45_device_interpreter.md R262), so that a device that takes the
write holds it. -/

namespace Sys2Proof.Machine

variable {c : Cfg}

theorem onesAt_bit (l : List Nat) {j : Nat} (hj : j < 8) : (onesAt l).getLsbD j = decide (j ∈ l) := by
  induction l with
  | nil => simp [onesAt]
  | cons i l ih => simp only [onesAt, BitVec.getLsbD_or, oneShift_bit i hj, ih, List.mem_cons, Bool.decide_or]

theorem onlyBits_onesAt {bits l : List Nat} (h : ∀ i ∈ l, i ∈ bits) : onlyBits bits (onesAt l) = true := by
  simp only [onlyBits, List.all_eq_true, List.mem_range, Bool.or_eq_true, decide_eq_true_eq, Bool.not_eq_true']
  intro j hj
  rw [onesAt_bit l hj]
  by_cases hjl : j ∈ l
  · exact .inl (h j hjl)
  · exact .inr (by simp [hjl])

theorem onlyBits_zero (bits : List Nat) : onlyBits bits 0 = true := onlyBits_onesAt (l := []) (by simp)

theorem modeBit_receive (m : ModeBit) : m.bit.getLsbD 0 = decide (m = .receive) := by cases m <;> decide

/-- `CONFIG_INIT(role)`: power-up, CRC on, CRC of two bytes, the initial mode bit (10_state.md R29). -/
theorem configInit_eq (c : Cfg) : c.configInit =
    withBit (onesAt [c.bitPwrUp, c.bitEnCrc, c.bitCrco]) c.bitPrimRx (decide (c.initMode = .receive)) := by
  have h1 : (1 : Byte).getLsbD 0 = true := by decide
  have h2 : crcoOf Config.crcBits = 1 := by decide
  rw [Cfg.configInit, h2]
  simp only [setBit_eq, h1, modeBit_receive]
  apply BitVec.eq_of_getLsbD_eq
  intro j hj
  simp only [withBit_bit _ _ _ _ hj, onesAt_bit _ hj, List.mem_cons, List.not_mem_nil, or_false]
  by_cases e1 : j = c.bitPrimRx <;> by_cases e2 : j = c.bitCrco <;> by_cases e3 : j = c.bitEnCrc <;>
    by_cases e4 : j = c.bitPwrUp <;> simp [e1, e2, e3, e4]

theorem setupRetrInit_eq (c : Cfg) : c.setupRetrInit = 0x00 := by
  simp only [Cfg.setupRetrInit, setField, Config.retrCount, Config.retrDelay]
  simp

theorem aw_layout (h : c.mapped = true) : c.loAw < 7 := by
  have hb := mapped_bits h
  simp only [BitPositions.ok, Bool.and_eq_true, layoutOk, BitPositions.awBits, List.range', List.all_cons, List.all_nil,
    decide_eq_true_eq] at hb
  omega

/-- `AW_INIT`: the setting that nominally selects three bytes (10_state.md R31), a legal one. -/
theorem awInit_eq (h : c.mapped = true) : c.awInit = (0b01 : Byte) <<< c.loAw ∧
    onlyBits c.awBits c.awInit = true ∧ getField c.awInit (c.loAw + 1) c.loAw ≠ 0 := by
  have hl := aw_layout h
  simp only [Cfg.awInit, BitPositions.awBits]
  generalize c.loAw = lo at hl
  revert hl; revert lo; decide

/-- Init writes the values the spec tabulates, register by register. -/
theorem initValues_eq (h : c.mapped = true) : initValues c =
    [(c.regConfig, c.configInit), (c.regSetupRetr, c.setupRetrInit), (c.regSetupAw, c.awInit), (c.regRfSetup, c.rfSetup),
      (c.regRxPwP0, c.rxPwInit), (c.regRfCh, c.channel), (c.regEnAa, Config.enAaInit)] := by
  rw [configInit_eq, setupRetrInit_eq, (awInit_eq h).1]
  unfold initValues Cfg.initMode
  cases c.role <;> rfl

/-- Every value Init writes is legal for its register, and its register takes it as its one byte. -/
theorem initValues_legal (h : c.legal = true) : ∀ p ∈ initValues c, legalValue c p.1 p.2 = true ∧ isFiveByte c p.1 = false ∧
    p.1 ∈ c.named ∧ p.1 ≠ c.regStatus := by
  simp only [Cfg.legal, Bool.and_eq_true, decide_eq_true_eq] at h
  obtain ⟨⟨⟨⟨⟨⟨hm, hch⟩, hrf⟩, hpw⟩, _⟩, _⟩, _⟩ := h
  have apart : ∀ {i j : Nat} (hi : i < 10) (hj : j < 10), i ≠ j → c.named[i]'hi ≠ c.named[j]'hj :=
    fun hi hj => named_apart hm hi hj
  have hcfg : onlyBits c.configBits c.configInit = true := by
    rw [configInit_eq]
    exact onlyBits_withBit (by simp [BitPositions.configBits]) _
      (onlyBits_onesAt (by simp [BitPositions.configBits]))
  have aw := (awInit_eq hm).2
  have n03 : c.regSetupRetr ≠ c.regConfig := apart (i := 3) (j := 0) (by decide) (by decide) (by decide)
  have n02 : c.regSetupAw ≠ c.regConfig := apart (i := 2) (j := 0) (by decide) (by decide) (by decide)
  have n01 : c.regEnAa ≠ c.regConfig := apart (i := 1) (j := 0) (by decide) (by decide) (by decide)
  have n13 : c.regSetupRetr ≠ c.regEnAa := apart (i := 3) (j := 1) (by decide) (by decide) (by decide)
  have n12 : c.regSetupAw ≠ c.regEnAa := apart (i := 2) (j := 1) (by decide) (by decide) (by decide)
  have n23 : c.regSetupRetr ≠ c.regSetupAw := apart (i := 3) (j := 2) (by decide) (by decide) (by decide)
  have five : ∀ {i : Nat} (hi : i < 10), i ≠ 8 → i ≠ 7 → isFiveByte c (c.named[i]'hi) = false := fun {i} hi h8 h7 => by
    have e1 : c.named[i]'hi ≠ c.regTxAddr := apart (j := 8) hi (by decide) h8
    have e2 : c.named[i]'hi ≠ c.regRxAddrP0 := apart (j := 7) hi (by decide) h7
    simp [isFiveByte, e1, e2]
  have st : ∀ {i : Nat} (hi : i < 10), i ≠ 6 → c.named[i]'hi ≠ c.regStatus := fun hi h6 => apart (j := 6) hi (by decide) h6
  rw [initValues_eq hm]
  simp only [List.forall_mem_cons, List.not_mem_nil, false_imp_iff, implies_true, and_true]
  refine ⟨⟨?_, five (i := 0) (by decide) (by decide) (by decide), by simp, st (i := 0) (by decide) (by decide)⟩,
    ⟨?_, five (i := 3) (by decide) (by decide) (by decide), by simp, st (i := 3) (by decide) (by decide)⟩,
    ⟨?_, five (i := 2) (by decide) (by decide) (by decide), by simp, st (i := 2) (by decide) (by decide)⟩,
    ⟨hrf, five (i := 5) (by decide) (by decide) (by decide), by simp, st (i := 5) (by decide) (by decide)⟩,
    ⟨hpw, five (i := 9) (by decide) (by decide) (by decide), by simp, st (i := 9) (by decide) (by decide)⟩,
    ⟨hch, five (i := 4) (by decide) (by decide) (by decide), by simp, st (i := 4) (by decide) (by decide)⟩,
    ⟨?_, five (i := 1) (by decide) (by decide) (by decide), by simp, st (i := 1) (by decide) (by decide)⟩⟩
  · rw [legalValue_config]; exact hcfg
  · simp only [legalValue, n03, n13, n23, if_false, if_true, setupRetrInit_eq]; exact onlyBits_zero _
  · simp only [legalValue, n02, n12, if_false, if_true, aw.1, Bool.true_and, decide_eq_true_eq]; exact aw.2
  · simp only [legalValue, n01, if_false, if_true]; exact onlyBits_zero _

end Sys2Proof.Machine
end

