-- ==== Sys2Proof/Laws/Modes.lean ====
section
/-! SUPPORT. ModeController and the send path as computations: what StartListening, StopListening, Start, Initiate and
one round of End do when exchanges complete. -/

namespace Sys2Proof.Machine

/-- From `s` to `t` an operation went on to its return, the enable line and the burst apart. -/
structure Went (s t : State) : Prop where
  cfg : t.cfg = s.cfg
  initialised : t.initialised = s.initialised
  countdown : t.countdown = s.countdown
  tickdiv : t.tickdiv = s.tickdiv
  tickArmed : t.tickArmed = s.tickArmed
  sensor : t.sensor = s.sensor
  complete : s.port.left = none → t.port.left = none
  absent : s.cfg.present = false → t.dev = s.dev
  callers : ∀ q, SameCallers q s.seq → SameCallers q t.seq

theorem Went.trans {s t u : State} (h : Went s t) (k : Went t u) : Went s u where
  cfg := k.cfg.trans h.cfg
  initialised := k.initialised.trans h.initialised
  countdown := k.countdown.trans h.countdown
  tickdiv := k.tickdiv.trans h.tickdiv
  tickArmed := k.tickArmed.trans h.tickArmed
  sensor := k.sensor.trans h.sensor
  complete hs := k.complete (h.complete hs)
  absent hs := (k.absent (by rw [h.cfg]; exact hs)).trans (h.absent hs)
  callers q hq := k.callers q (h.callers q hq)

theorem Work.went {s t : State} (h : Work s t) : Went s t :=
  ⟨h.cfg, h.initialised, h.countdown, h.tickdiv, h.tickArmed, h.sensor, h.complete, h.absent, h.callers⟩

theorem Called.went {s t : State} (h : Called s t) : Went s t := h.work.went

/-- What a called operation adds: the caller's sequencer goes on. -/
theorem Went.called {task : Task} {s t : State} (h : Went (s.entering task) t) : Went s t.leaving ∧ t.leaving.seq = advance s.seq := by
  have hp := (h.callers _ (SameCallers.start (p := Position.mk task 0 Locals.start) (r := s.seq))).popped
  refine ⟨⟨h.cfg, h.initialised, h.countdown, h.tickdiv, h.tickArmed, h.sensor, h.complete, h.absent, fun q hq => ?_⟩, hp⟩
  show SameCallers q (popped t.seq)
  rw [hp]; exact hq.advance

theorem Went.inside {task : Task} {s t : State} (w : Went (begun task s) t) : SameCallers (begun task s).seq t.seq :=
  w.callers _ (begun_callers task s)

/-- Operations keep an empty schedule and the ports. -/
theorem gap_idle {s : State} (h : s.env = []) : (gap s).env = [] ∧ (gap s).inbox = s.inbox ∧ (gap s).resp = s.resp := by
  simp only [gap, h, gapOf]
  split
  · unfold transmitComplete
    split
    · cases s.dev.burst <;> exact ⟨h, rfl, rfl⟩
    · exact ⟨h, rfl, rfl⟩
  · exact ⟨h, rfl, rfl⟩

/-! The lines. -/

/-- The state after a CeHigh, a CeLow, a Wait action. -/
def lifted (s : State) : State := (gap s).raised.stamped .ceHigh
def dropped (s : State) : State := (gap s).lowered.stamped .ceLow
def waited (us : Nat) (s : State) : State := (gap s).stamped (.wait us)

theorem ceHigh_lifted (s : State) : ceHigh.run s = .ok () (lifted s) := rfl
theorem ceLow_dropped (s : State) : ceLow.run s = .ok () (dropped s) := rfl
theorem waitUs_waited (us : Nat) (s : State) : (waitUs us).run s = .ok () (waited us s) := rfl

theorem dropped_went (s : State) : Went s (dropped s) where
  cfg := gap_cfg s
  initialised := gap_initialised s
  countdown := gap_countdown s
  tickdiv := gap_tickdiv s
  tickArmed := gap_tickArmed s
  sensor := gap_sensor s
  complete h := by show (gap s).port.left = none; rw [gap_port]; exact h
  absent h := (gap_absent h).1
  callers q h := by show SameCallers q (advance (gap s).seq); rw [gap_seq]; exact h.advance

theorem waited_went (us : Nat) (s : State) : Went s (waited us s) where
  cfg := gap_cfg s
  initialised := gap_initialised s
  countdown := gap_countdown s
  tickdiv := gap_tickdiv s
  tickArmed := gap_tickArmed s
  sensor := gap_sensor s
  complete h := by show (gap s).port.left = none; rw [gap_port]; exact h
  absent h := (gap_absent h).1
  callers q h := by show SameCallers q (advance (gap s).seq); rw [gap_seq]; exact h.advance

theorem lifted_went (s : State) : Went s (lifted s) where
  cfg := by simp [lifted]
  initialised := by simp [lifted]
  countdown := by simp [lifted]
  tickdiv := by simp [lifted]
  tickArmed := by simp [lifted]
  sensor := by simp [lifted]
  complete h := by simp [lifted, h]
  absent h := by
    show (gap s).raised.dev = s.dev
    rw [raised_absent (by rw [gap_cfg]; exact h), (gap_absent h).1]
  callers q h := by
    show SameCallers q (advance (gap s).raised.seq)
    rw [State.raised_seq, gap_seq]; exact h.advance

@[simp] theorem lifted_trace (s : State) : (lifted s).trace = .ceHigh :: s.trace := by
  simp [lifted]
@[simp] theorem lifted_ce (s : State) : (lifted s).ce = .high := by simp [lifted]
@[simp] theorem lifted_csn (s : State) : (lifted s).csn = s.csn := by simp [lifted]
@[simp] theorem lifted_cache (s : State) : (lifted s).cache = s.cache := by simp [lifted]
@[simp] theorem lifted_cfg (s : State) : (lifted s).cfg = s.cfg := by simp [lifted]
@[simp] theorem lifted_cell (s : State) (k : Cfg) (a : Byte) (i : Nat) : (lifted s).dev.cell k a i = s.dev.cell k a i := by
  show (gap s).raised.dev.cell k a i = _; rw [raised_cell, gap_cell]
@[simp] theorem dropped_trace (s : State) : (dropped s).trace = .ceLow :: s.trace := by
  show _ :: (gap s).trace = _; rw [gap_trace]
@[simp] theorem dropped_ce (s : State) : (dropped s).ce = .low := rfl
@[simp] theorem dropped_csn (s : State) : (dropped s).csn = s.csn := gap_csn s
@[simp] theorem dropped_cache (s : State) : (dropped s).cache = s.cache := gap_cache s
@[simp] theorem dropped_cfg (s : State) : (dropped s).cfg = s.cfg := gap_cfg s
@[simp] theorem dropped_cell (s : State) (k : Cfg) (a : Byte) (i : Nat) : (dropped s).dev.cell k a i = s.dev.cell k a i := gap_cell s k a i
@[simp] theorem waited_trace (us : Nat) (s : State) : (waited us s).trace = .wait us :: s.trace := by
  show _ :: (gap s).trace = _; rw [gap_trace]
@[simp] theorem waited_ce (us : Nat) (s : State) : (waited us s).ce = s.ce := gap_ce s
@[simp] theorem waited_csn (us : Nat) (s : State) : (waited us s).csn = s.csn := gap_csn s
@[simp] theorem waited_cache (us : Nat) (s : State) : (waited us s).cache = s.cache := gap_cache s
@[simp] theorem waited_cfg (us : Nat) (s : State) : (waited us s).cfg = s.cfg := gap_cfg s
@[simp] theorem waited_cell (us : Nat) (s : State) (k : Cfg) (a : Byte) (i : Nat) : (waited us s).dev.cell k a i = s.dev.cell k a i :=
  gap_cell s k a i

/-! StopListening (43_mode_controller.md R215). -/

/-- With the line low a FLUSH_RX frame leaves the receive FIFO empty, whatever the other agents do. -/
theorem flushRx_empties {s t : State} {st : Byte} (hm : s.cfg.mapped = true) (hx : s.port.left = none)
    (hp : s.cfg.present = true) (hce : s.ce = .low) (h : (flushRx s.cfg).run s = .ok st t) : t.dev.rxFifo = [] := by
  generalize hop : s.cfg.opcFlushRx = op
  have hdec : decodeOpcode s.cfg.toOpcodes op = some .flushRx := by rw [← hop]; exact decodeOpcode_flushRx (mapped_opcodes hm)
  have hb := writeCommandBody_run op (s := (s.entering (.op .flushRx)).entering (.op (.writeCommand op))) hx
  generalize hu : (s.entering (.op .flushRx)).entering (.op (.writeCommand op)) = u at hb
  have hcfg : u.cfg = s.cfg := by rw [← hu]; rfl
  have hup : u.cfg.present = true := by rw [hcfg]; exact hp
  have huc : u.ce = .low := by rw [← hu]; exact hce
  have hrun : (flushRx s.cfg).run s = .ok (heard op (opened u)) (framedAll true op [] u).leaving.leaving := by
    unfold flushRx writeCommand
    rw [hop, call_run, call_run, hu, hb]; rfl
  rw [hrun] at h
  injection h with h1 h2
  rw [← h2]
  show (framedAll true op [] u).dev.rxFifo = []
  unfold framedAll sentAll
  have hf : (sent true op (opened u)).dev.frame = .done := by
    rw [sent_opcode (by rw [opened_cfg, hcfg]; exact hdec) (by simpa using hup) (opened_frame hup)]
  have he : (sent true op (opened u)).dev.rxFifo = [] := by
    rw [sent_dev (by simpa using hup)]
    have ha : (gap (opened u)).dev.frame = .awaitOpcode := by rw [gap_frame]; exact opened_frame hup
    rw [Device.exchange_open _ _ _ _ ha, opened_cfg, hcfg]
    simp only [Device.openFrame, hdec]; rfl
  have hl := (gap_low (s := sent true op (opened u)) (by
    show (gap (opened u)).ce = _; rw [gap_ce]; show (gap u).ce = _; rw [gap_ce]; exact huc)).1
  rw [closed_dev (by simpa using hup), Device.deselect, Device.inFrame_rxFifo]
  unfold Device.commit
  rw [gap_frame, hf]
  exact hl.trans he

/-- What StopListening does. -/
theorem stopListeningBody_ok {s : State} (hm : s.cfg.mapped = true) (hx : s.port.left = none) :
    ∃ t st, (stopListeningBody s.cfg).run s = .ok st t ∧ Went s t ∧ t.csn = .deasserted ∧ t.ce = .low ∧ t.cache = s.cache ∧
      t.trace = .csnDeassert :: .xchg s.cfg.opcFlushRx (some st) :: .csnAssert :: .ceLow :: s.trace ∧
      (∀ k b i, t.dev.cell k b i = s.dev.cell k b i) ∧ (s.cfg.present = true → t.dev.rxFifo = []) ∧
      (s.cfg.present = false → st = s.cfg.absentByte) ∧
      (Quiet s → Quiet t ∧ t.air = s.air ∧ t.inbox = s.inbox ∧ t.resp = s.resp) ∧
      (s.cfg.present = true → Quiet s → st = s.dev.statusByte s.cfg ∧
        t.dev = Device.inFrame .none { s.dev with rxFifo := [] }) := by
  have hw := dropped_went s
  obtain ⟨t, st, hr, hf, hca, ht, hcell, habs, hq⟩ := flushRx_ok (s := dropped s) (by rw [hw.cfg]; exact hm) (hw.complete hx)
  have hqd : Quiet s → dropped s = s.lowered.stamped .ceLow := fun h => by rw [dropped, gap_quiet h]
  have hempty := fun hp => flushRx_empties (s := dropped s) (by rw [hw.cfg]; exact hm) (hw.complete hx) hp rfl hr
  rw [hw.cfg] at hr ht habs hq hempty
  refine ⟨t, st, ?_, hw.trans hf.went, hf.csn, hf.ce, by rw [hca, dropped_cache], by rw [ht, dropped_trace],
    fun k b i => by rw [hcell, dropped_cell], hempty, habs, fun h => ?_, fun hp h => ?_⟩
  · simp only [stopListeningBody, EStateM.run_bind, ceLow_dropped, hr]
  · have := hf.quiet (by rw [hqd h]; exact h)
    rw [hqd h] at this
    exact this
  · have hq' : Quiet (dropped s) := by rw [hqd h]; exact h
    obtain ⟨h1, h2⟩ := hq hp hq'
    have hd : (dropped s).dev = s.dev := by rw [hqd h]; rfl
    rw [h2, h1, hd, command_flushRx hm]
    exact ⟨rfl, rfl⟩

/-! StartListening (43_mode_controller.md R214). -/

/-- The first two steps of StartListening and Start: clear the flags, write the mode bit `m`, with `w` the byte
written. -/
theorem clear_then_mode (m w : Byte) {s : State} (hm : s.cfg.mapped = true) (hx : s.port.left = none) {c : Byte}
    (hc : s.cached s.cfg.regConfig = some c) (hw : withBit c s.cfg.bitPrimRx (m.getLsbD 0) = w) :
    ∃ t1 t st v, (clearFlags s.cfg s.cfg.flagsAll).run s = .ok () t1 ∧ (setModeBit s.cfg m).run t1 = .ok (decide (v ≠ w)) t ∧
      Work s t ∧
      t.trace = .csnDeassert :: .xchg Config.dummy (some v) :: .xchg (readOpcode s.cfg.regConfig) (some st) :: .csnAssert ::
        .csnDeassert :: .xchg w none :: .xchg (writeOpcode s.cfg.regConfig) none :: .csnAssert ::
        .csnDeassert :: .xchg s.cfg.flagsAll none :: .xchg (writeOpcode s.cfg.regStatus) none :: .csnAssert :: s.trace ∧
      (∀ b, t.cached b = if v = w ∧ b = s.cfg.regConfig then some w else s.cached b) ∧
      (v ≠ w → t.cache = s.cache) ∧
      (s.cfg.present = false → v = s.cfg.absentByte) ∧
      (∀ b ≠ s.cfg.regConfig, ∀ i, t.dev.cell s.cfg b i = s.dev.cell s.cfg b i) ∧
      (Takes s s.cfg.regConfig → legalValue s.cfg s.cfg.regConfig c = true →
        v = w ∧ t.dev.cell s.cfg s.cfg.regConfig 0 = some (.known w)) ∧
      (s.cfg.present = true → s.cfg.regConfig ∈ s.cfg.stuck →
        ∀ b, s.dev.cell s.cfg s.cfg.regConfig 0 = some (.known b) →
          v = b ∧ t.dev.cell s.cfg s.cfg.regConfig 0 = some (.known b)) ∧
      (Takes s s.cfg.regConfig → legalValue s.cfg s.cfg.regConfig c = true → Takes s s.cfg.regStatus → Quiet s →
        t.dev = Device.inFrame .none
          ((s.dev.clearFlags s.cfg s.cfg.flagsAll).setCell s.cfg s.cfg.regConfig (.known w) 0)) := by
  obtain ⟨t1, hr1, hf1, hca1, ht1, hcell1, hq1⟩ := clearFlags_ok s.cfg.flagsAll hm hx
  have hc1 : t1.cached t1.cfg.regConfig = some c := by rw [hf1.cfg, State.cached_congr hca1]; exact hc
  obtain ⟨t2, st, v, hr2, hf2, hca2, ht2, habs2, hcell2, hval2, hq2⟩ :=
    setModeBit_ok m (s := t1) (by rw [hf1.cfg]; exact hm) (hf1.complete hx) hc1
  rw [hf1.cfg] at hr2 hca2 ht2 hcell2 hval2 hq2 habs2
  rw [hw] at hr2 hca2 ht2 hcell2 hval2 hq2
  rw [BitVec.and_self] at ht1 hq1
  have h7 : legalValue s.cfg s.cfg.regConfig c = true → legalValue s.cfg s.cfg.regConfig w = true := fun h => by
    rw [← hw]; exact modeByte_legal _ h
  have h1 : ∀ b, t1.cached b = s.cached b := fun b => State.cached_congr hca1 b
  refine ⟨t1, t2, st, v, hr1, hr2, hf1.work.trans hf2.work, ?_, fun b => ?_, fun h => ?_, habs2, ?_, ?_, ?_, ?_⟩
  · rw [ht2, ht1]
  · rw [cached_validated (named_le hm regConfig_named) hca2, h1]
  · rw [hca2, if_neg h, hca1]
  · intro b hb i
    cases hp : s.cfg.present
    · rw [hf2.absent (by rw [hf1.cfg]; exact hp), hf1.absent hp]
    · rw [hcell2 hp, Device.cell_store_ne _ (Ne.symm hb), hcell1]
  · rintro ⟨hp, hns⟩ h
    have hc1 := cell_store_takes_eq (c := s.cfg) (d := t1.dev) (v := w) hns (named_writable hm regConfig_named)
      (config_ne_status hm) (named_le hm regConfig_named) (.inl (h7 h))
    exact ⟨hval2 hp _ hc1, (hcell2 hp _ _).trans hc1⟩
  · intro hp hst b hb
    have : (t1.dev.store s.cfg s.cfg.regConfig 0 w).cell s.cfg s.cfg.regConfig 0 = some (.known b) := by
      rw [Device.store_stuck hst, hcell1, hb]
    exact ⟨hval2 hp b this, (hcell2 hp _ _).trans this⟩
  · rintro ⟨hp, hns⟩ h ⟨_, hns'⟩ hqs
    rw [hq2 hp (hf1.quiet hqs).1, store_config hm hns (h7 h), hq1 hp hqs, store_status hm hns']
    rfl

/-- What StartListening does: the line is raised after a mode-bit write that matched. -/
theorem startListeningBody_ok {s : State} (hm : s.cfg.mapped = true) (hx : s.port.left = none) {c w : Byte}
    (hc : s.cached s.cfg.regConfig = some c) (hw : withBit c s.cfg.bitPrimRx true = w) :
    ∃ t u st v, (startListeningBody s.cfg).run s = .ok (if v = w then Reply.plain else Reply.failIf true) t ∧
      t = (if v = w then lifted u else u) ∧ Work s u ∧
      u.trace = .csnDeassert :: .xchg Config.dummy (some v) :: .xchg (readOpcode s.cfg.regConfig) (some st) :: .csnAssert ::
        .csnDeassert :: .xchg w none :: .xchg (writeOpcode s.cfg.regConfig) none :: .csnAssert ::
        .csnDeassert :: .xchg s.cfg.flagsAll none :: .xchg (writeOpcode s.cfg.regStatus) none :: .csnAssert :: s.trace ∧
      (∀ b, u.cached b = if v = w ∧ b = s.cfg.regConfig then some w else s.cached b) ∧
      (v ≠ w → u.cache = s.cache) ∧
      (s.cfg.present = false → v = s.cfg.absentByte) ∧
      (∀ b ≠ s.cfg.regConfig, ∀ i, u.dev.cell s.cfg b i = s.dev.cell s.cfg b i) ∧
      (Takes s s.cfg.regConfig → legalValue s.cfg s.cfg.regConfig c = true →
        v = w ∧ u.dev.cell s.cfg s.cfg.regConfig 0 = some (.known w)) ∧
      (s.cfg.present = true → s.cfg.regConfig ∈ s.cfg.stuck →
        ∀ b, s.dev.cell s.cfg s.cfg.regConfig 0 = some (.known b) →
          v = b ∧ u.dev.cell s.cfg s.cfg.regConfig 0 = some (.known b)) ∧
      (Takes s s.cfg.regConfig → legalValue s.cfg s.cfg.regConfig c = true → Takes s s.cfg.regStatus → Quiet s →
        u.dev = Device.inFrame .none
          ((s.dev.clearFlags s.cfg s.cfg.flagsAll).setCell s.cfg s.cfg.regConfig (.known w) 0)) := by
  obtain ⟨t1, u, st, v, hr1, hr2, h⟩ := clear_then_mode ModeBit.receive.bit w hm hx hc hw
  refine ⟨_, u, st, v, ?_, rfl, h⟩
  by_cases hv : v = w
  · simp only [startListeningBody, EStateM.run_bind, hr1, hr2, hv, ne_eq, not_true_eq_false, decide_false,
      Bool.false_eq_true, if_false, if_true, ceHigh_lifted, EStateM.run_pure]
  · simp only [startListeningBody, EStateM.run_bind, hr1, hr2, hv, ne_eq, not_false_eq_true, decide_true, if_false, if_true,
      EStateM.run_pure]

/-- Raising a line that is high already, on a quiet node, changes nothing but the trace and the sequencer (R214). -/
theorem lifted_high {u : State} (hq : Quiet u) (h : u.ce = .high) : lifted u = u.stamped .ceHigh := by
  rw [lifted, gap_quiet hq, State.raised_high h]

/-- Raising the line on a quiet device in receive mode, or on no device, changes nothing but the line. -/
theorem lifted_receive {u : State} (hq : Quiet u) (h : u.cfg.present = true →
    ∃ b, u.dev.cell u.cfg u.cfg.regConfig 0 = some (.known b) ∧ b.getLsbD u.cfg.bitPrimRx = true) :
    (lifted u).dev = u.dev ∧ Quiet (lifted u) ∧ (lifted u).air = u.air ∧ (lifted u).inbox = u.inbox ∧
      (lifted u).resp = u.resp := by
  have hd : (lifted u).dev = u.dev := by
    show (gap u).raised.dev = u.dev
    rw [gap_quiet hq]
    cases hp : u.cfg.present
    · exact raised_absent hp
    · obtain ⟨b, h1, h2⟩ := h hp
      cases hc : u.ce
      · rw [State.raised_high hc]
      · rw [State.raised_low hc]
        show u.onDevice _ = u.dev
        rw [onDevice_present _ hp, trigger_receive h1 h2]
  refine ⟨hd, ⟨?_, ?_⟩, ?_, ?_, ?_⟩
  · simpa [lifted, gap_quiet hq] using hq.1
  · rw [hd]; exact hq.2
  · simp [lifted, gap_quiet hq]
  · simp [lifted, gap_quiet hq]
  · simp [lifted, gap_quiet hq]

end Sys2Proof.Machine
end

