-- ==== Sys2Proof/Laws/PerInstr.lean ====
section
/-! SUPPORT. The round trip of every instruction, constructor by constructor (30_encoding.md R91, R93, R94, R100,
R101): what its encoding decodes to. -/

namespace Sys2Proof.Laws.RoundTrip

open Sys2Proof Sys2Proof.Machine

/-- The instruction, when well formed, is what its encoding decodes to, whatever five fixed opcodes the node has. -/
def Statement (i : Instr) : Prop := ∀ o : Opcodes, o.ok = true → i.wellFormed = true → decode o (encode o i) = .ok i

/-- A buffer of full length comes back whole. -/
theorem requestBuffer_full {buf : List Byte} (h : bufferOk buf = true) : requestBuffer buf = buf := by
  simp only [bufferOk, decide_eq_true_eq] at h
  simp [requestBuffer, ← h]

/-- A frame whose opcode and length are legal decodes to that opcode's instruction. -/
theorem decode_frame {o : Opcodes} {op : Byte} {k : Opcode} {data : List Byte} (ho : decodeOpcode o op = some k)
    (h : frameLengthOk data = true) : decode o (.frame (op :: data)) = .ok (k.instr data) := by
  simp only [frameLengthOk, decide_eq_true_eq] at h
  simp only [decode, decodeFrame, ho, h, if_true]

/-- A 5-bit address in range, as the byte it is. -/
theorem address_le {addr : BitVec Config.addrBits} (h : busAddressOk addr = true) : addr.setWidth 8 ≤ Config.regHi := by
  revert addr; decide

theorem address_back (addr : BitVec Config.addrBits) : (addr.setWidth 8).setWidth 5 = addr := by revert addr; decide

/-- A request comes back field by field. -/
theorem decode_request (o : Opcodes) (op a d n : Byte) (buf : List Byte) :
    decode o (requestBytes op a d n buf) = decodeOperation op a d n (requestBuffer buf) := rfl

theorem rRegister (addr : BitVec Config.addrBits) (data : List Byte) : Statement (.rRegister addr data) := by
  intro o ho h
  simp only [Instr.wellFormed, Bool.and_eq_true] at h
  rw [encode, decode_frame (decodeOpcode_read o (address_le h.1)) h.2, Opcode.instr, address_back]

theorem wRegister (addr : BitVec Config.addrBits) (data : List Byte) : Statement (.wRegister addr data) := by
  intro o ho h
  simp only [Instr.wellFormed, Bool.and_eq_true] at h
  rw [encode, decode_frame (decodeOpcode_write o (address_le h.1)) h.2, Opcode.instr, address_back]

theorem rRxPayload (data : List Byte) : Statement (.rRxPayload data) := by
  intro o ho h
  rw [encode, decode_frame (decodeOpcode_rxPayload ho) h, Opcode.instr]

theorem wTxPayload (data : List Byte) : Statement (.wTxPayload data) := by
  intro o ho h
  rw [encode, decode_frame (decodeOpcode_txPayload ho) h, Opcode.instr]

theorem busFlushTx (data : List Byte) : Statement (.busFlushTx data) := by
  intro o ho h
  rw [encode, decode_frame (decodeOpcode_flushTx ho) h, Opcode.instr]

theorem busFlushRx (data : List Byte) : Statement (.busFlushRx data) := by
  intro o ho h
  rw [encode, decode_frame (decodeOpcode_flushRx ho) h, Opcode.instr]

theorem busNop (data : List Byte) : Statement (.busNop data) := by
  intro o ho h
  rw [encode, decode_frame (decodeOpcode_nop ho) h, Opcode.instr]

theorem readRegister (a : Byte) : Statement (.readRegister a) := by
  intro _ _ _; rfl

theorem writeRegister (a : Byte) (d : Byte) : Statement (.writeRegister a d) := by
  intro _ _ _; rfl

theorem writeCommand (d : Byte) : Statement (.writeCommand d) := by
  intro _ _ _; rfl

theorem writeRegisterBurst (a : Byte) (n : Byte) (buf : List Byte) : Statement (.writeRegisterBurst a n buf) := by
  intro o ho h
  rw [encode, decode_request, requestBuffer_full h]; rfl

theorem writeValidated (a : Byte) (d : Byte) : Statement (.writeValidated a d) := by
  intro _ _ _; rfl

theorem init : Statement (.init) := by
  intro _ _ _; rfl

theorem writeFifo (n : Byte) (buf : List Byte) : Statement (.writeFifo n buf) := by
  intro o ho h
  rw [encode, decode_request, requestBuffer_full h]; rfl

theorem readFifo (n : Byte) : Statement (.readFifo n) := by
  intro _ _ _; rfl

theorem flushTx : Statement (.flushTx) := by
  intro _ _ _; rfl

theorem flushRx : Statement (.flushRx) := by
  intro _ _ _; rfl

theorem clearFlags (d : Byte) : Statement (.clearFlags d) := by
  intro _ _ _; rfl

theorem send (n : Byte) (buf : List Byte) : Statement (.send n buf) := by
  intro o ho h
  rw [encode, decode_request, requestBuffer_full h]; rfl

theorem start (n : Byte) (buf : List Byte) : Statement (.start n buf) := by
  intro o ho h
  rw [encode, decode_request, requestBuffer_full h]; rfl

theorem initiate : Statement (.initiate) := by
  intro _ _ _; rfl

theorem endSend : Statement (.endSend) := by
  intro _ _ _; rfl

theorem setModeBit (d : Byte) : Statement (.setModeBit d) := by
  intro _ _ _; rfl

theorem startListening : Statement (.startListening) := by
  intro _ _ _; rfl

theorem stopListening : Statement (.stopListening) := by
  intro _ _ _; rfl

theorem getMode : Statement (.getMode) := by
  intro _ _ _; rfl

theorem pollReceived : Statement (.pollReceived) := by
  intro _ _ _; rfl

theorem boot : Statement (.boot) := by
  intro _ _ _; rfl

theorem childTick : Statement (.childTick) := by
  intro _ _ _; rfl

theorem parentTick : Statement (.parentTick) := by
  intro _ _ _; rfl

end Sys2Proof.Laws.RoundTrip
end

