-- ==== Sys2Proof/Tests/Slice0.lean ====
section
/-! SUPPORT. Tests. Expected values come from 30_encoding.md and 95_test_vectors.md (the vector is named at each
test), not from the model. Then, for every obligation with hypotheses, a concrete state that meets them. -/

namespace Sys2Proof.Tests

open Sys2Proof Sys2Proof.Machine

set_option maxRecDepth 100000

/-! Well-formedness: each check refuses an ill-formed term. -/

theorem test_address_high : (Instr.rRegister 0x1E []).wellFormed = false := by decide
theorem test_address_top : (Instr.wRegister 0x1F [0]).wellFormed = false := by decide
theorem test_address_last : (Instr.wRegister 0x1D [0]).wellFormed = true := by decide
theorem test_frame_long : (Instr.wTxPayload (List.replicate 33 0)).wellFormed = false := by decide
theorem test_frame_full : (Instr.wTxPayload (List.replicate 32 0)).wellFormed = true := by decide
theorem test_buffer_short : (Instr.send 2 [0xFB, 0x02]).wellFormed = false := by decide
theorem test_buffer_full : (Instr.send 2 (List.replicate 32 0)).wellFormed = true := by decide

/-! Decoding: for every constructor a word written out from the encoding of 30_encoding.md R91, R93, R101. -/

/-- A buffer of the bytes given, filled with zeros to 32 (R100). -/
def buffer32 (bytes : List Byte) : List Byte := bytes ++ List.replicate (32 - bytes.length) 0

theorem test_decode_registers :
    decode .family (.frame [0b00000000, 0xFF]) = .ok (.rRegister 0x00 [0xFF])
    ∧ decode .family (.frame [0b00011101, 0xFF]) = .ok (.rRegister 0x1D [0xFF])
    ∧ decode .family (.frame [0b00100101, 0x4C]) = .ok (.wRegister 0x05 [0x4C])
    ∧ decode .family (.frame [0b00110000, 1, 2, 3, 4, 5]) = .ok (.wRegister 0x10 [1, 2, 3, 4, 5]) := by decide

theorem test_decode_fixed_opcodes :
    decode .family (.frame [0b01100001, 0xFF]) = .ok (.rRxPayload [0xFF])
    ∧ decode .family (.frame [0b10100000, 0xFB, 0x02]) = .ok (.wTxPayload [0xFB, 0x02])
    ∧ decode .family (.frame [0b11100001]) = .ok (.busFlushTx [])
    ∧ decode .family (.frame [0b11100010]) = .ok (.busFlushRx [])
    ∧ decode .family (.frame [0b11111111]) = .ok (.busNop []) := by decide

theorem test_decode_register_requests :
    decode .family (.request [0b00000001, 0x05]) = .ok (.readRegister 0x05)
    ∧ decode .family (.request [0b00000010, 0x05, 0x4C]) = .ok (.writeRegister 0x05 0x4C)
    ∧ decode .family (.request [0b00000011, 0, 0xE1]) = .ok (.writeCommand 0xE1)
    ∧ decode .family (.request [0b00000100, 0x10, 0, 5, 1, 2, 3, 4, 6]) = .ok (.writeRegisterBurst 0x10 5 (buffer32 [1,
    2, 3, 4, 6]))
    ∧ decode .family (.request [0b00000101, 0x04, 0x00]) = .ok (.writeValidated 0x04 0x00)
    ∧ decode .family (.request [0b00000110]) = .ok .init := by decide

theorem test_decode_packet_requests :
    decode .family (.request [0b00000111, 0, 0, 2, 0xFB, 0x02]) = .ok (.writeFifo 2 (buffer32 [0xFB, 0x02]))
    ∧ decode .family (.request [0b00001000, 0, 0, 2]) = .ok (.readFifo 2)
    ∧ decode .family (.request [0b00001001]) = .ok .flushTx
    ∧ decode .family (.request [0b00001010]) = .ok .flushRx
    ∧ decode .family (.request [0b00001011, 0, 0x70]) = .ok (.clearFlags 0x70)
    ∧ decode .family (.request [0b00001100, 0, 0, 2, 0xFB, 0x02]) = .ok (.send 2 (buffer32 [0xFB, 0x02]))
    ∧ decode .family (.request [0b00001101, 0, 0, 1, 0xAB]) = .ok (.start 1 (buffer32 [0xAB]))
    ∧ decode .family (.request [0b00001110]) = .ok .initiate
    ∧ decode .family (.request [0b00001111]) = .ok .endSend := by decide

theorem test_decode_mode_and_host_requests :
    decode .family (.request [0b00010000, 0, 1]) = .ok (.setModeBit 1)
    ∧ decode .family (.request [0b00010001]) = .ok .startListening
    ∧ decode .family (.request [0b00010010]) = .ok .stopListening
    ∧ decode .family (.request [0b00010011]) = .ok .getMode
    ∧ decode .family (.request [0b00010100]) = .ok .pollReceived
    ∧ decode .family (.request [0b00100000]) = .ok .boot
    ∧ decode .family (.request [0b00100001]) = .ok .childTick
    ∧ decode .family (.request [0b00100010]) = .ok .parentTick := by decide

theorem test_decode_rejects :
    decode .family (.frame [0x1E]) = .error (.badOpcode 0x1E)
    ∧ decode .family (.frame [0x50]) = .error (.badOpcode 0x50)
    ∧ decode .family (.request [0x15]) = .error (.unknownOp 0x15)
    ∧ decode .family (.frame []) = .error .emptyFrame
    ∧ decode .family (.frame (0xA0 :: List.replicate 33 0)) = .error (.frameTooLong 33) := by decide

theorem test_table_word : decodeTableWord 8 0x61 = some (.rRxPayload [0]) ∧ decodeTableWord 8 0x06 = some .init := by decide

/-! States for the tests. -/

/-- The device replaced. -/
def putDev (f : Device → Device) (s : State) : State := { s with dev := f s.dev }

/-- The configuration inputs replaced. -/
def putCfg (f : Cfg → Cfg) (s : State) : State := { s with cfg := f s.cfg }

/-- The cache of program P1's end state. -/
def childBytes : Vector Byte 30 :=
  #v[0x0E, 0x00, 0x03, 0x01, 0x00, 0x4C, 0x07, 0x0E, 0x00, 0x00, 0xE7, 0xC2, 0xC3, 0xC4, 0xC5, 0xC6, 0xE7, 0x02, 0x00,
    0x00, 0x00, 0x00, 0x00, 0x11, 0x00, 0x00, 0x00, 0x00, 0x00, 0x00]

/-- An initialised node whose cache and device hold the bytes given. -/
def nodeOf (b : Vector Byte 30) : State :=
  putDev (fun d => { d with regs := fileMap RegCell.known b })
    { State.reset with initialised := true, cache := fileMap some b }

/-- The Child after program P1. -/
def node : State := nodeOf childBytes

/-- The Parent after its boot (program P3), listening. -/
def listener : State :=
  { putCfg (fun c => { c with role := .parent }) (nodeOf (fileSet childBytes 0 0x0F)) with ce := .high, tickArmed := true }

/-- Flags of the device set as given: data received, data sent, retransmissions exhausted. -/
def flagged (rx tx rt : Bool) (s : State) : State :=
  putDev (fun d => { d with dataReceived := rx, dataSent := tx, maxRetransmit := rt }) s

/-- The FIFOs of the device as given: transmit, receive. -/
def queued (tx rx : List (List Byte)) (s : State) : State := putDev (fun d => { d with txFifo := tx, rxFifo := rx }) s

/-- The addresses given are stuck. -/
def stuckAt (l : List Byte) (s : State) : State := putCfg (fun c => { c with stuck := l }) s

/-- No device. -/
def absent (b : Byte) (s : State) : State := putCfg (fun c => { c with present := false, absentByte := b }) s

/-- The frame of program P2 on the air. -/
def airFrame : AirFrame := { addr := [0xE7, 0xE7, 0xE7, 0xE7, 0xE7], chan := 0x4C, rate := 0x07, payload := [0xFB, 0x02] }

/-- A burst of it in progress, whose payload the FIFO holds or does not. -/
def burstingWith (held : Bool) (s : State) : State :=
  putDev (fun d => { d with burst := some { frame := airFrame, held := held } }) s

/-- A burst of it in progress. -/
def bursting (s : State) : State := burstingWith true s

/-- The register that enables the receive pipes holds the byte given. -/
def withPipes (b : Byte) (s : State) : State := putDev (fun d => d.setCell s.cfg s.cfg.regEnRxAddr (.known b) 0) s

/-- The state an instruction ends in, when it ends in one. -/
def ran (i : Instr) (s : State) : Option State :=
  match exec i s with
  | .next t => some t
  | .fault _ => none
  | .refused _ => none

/-- Something stands on the request port. -/
def presented (b : Inbound) (s : State) : State := { s with inbox := some b }

/-- The state after a step. -/
def stepNext (s : State) : Option State :=
  match step s with
  | .next t => some t
  | .fault _ => none
  | .refused _ => none

/-- The fault a step ends in. -/
def stepFault (s : State) : Option Fault :=
  match step s with
  | .next _ => none
  | .fault r => some r
  | .refused _ => none

/-- The response and the trace an instruction ends with. -/
def shown (i : Instr) (s : State) : Option (Option Reply × List TraceEvent) := (ran i s).map fun t => (t.resp,
t.trace.reverse)

/-- The response. -/
def answered (i : Instr) (s : State) : Option (Option Reply) := (ran i s).map State.resp

/-- `ok` with a byte and a buffer. -/
def okWith (d : Byte) (buf : List Byte) : Reply := { outcome := .ok, d := d, buf := buf }

/-- A refusal. -/
def refusedWith (why : RefuseReason) : Reply := { outcome := .refused why, d := 0, buf := [] }

/-! Pure functions: V18, V50 to V56, V60 to V65. -/

theorem test_get_field : getField 0x0E 0 0 = 0 ∧ getField 0x0E 3 2 = 0b11 := by decide
theorem test_set_field : setField 0x0E 0 0 1 = 0x0F ∧ setField 0x0F 0 0 0 = 0x0E ∧ setField 0xFF 3 0 0x2 = 0xF2
    ∧ setField 0x00 5 4 0x7 = 0x30 := by decide
theorem test_status_byte :
    State.reset.dev.statusByte State.reset.cfg = 0x0E
    ∧ (flagged false true false node).dev.statusByte node.cfg = 0x2E
    ∧ (flagged true false false (queued [] [[1]] node)).dev.statusByte node.cfg = 0x40
    ∧ (flagged true true false node).dev.statusByte node.cfg = 0x6E
    ∧ (queued [[1], [2], [3]] [] node).dev.statusByte node.cfg = 0x0F
    ∧ (flagged true true true node).dev.statusByte node.cfg = 0x7E := by decide
theorem test_encode16 : encode16 .little 763 = [0xFB, 0x02] ∧ encode16 .little 0x0100 = [0x00, 0x01] := by decide
theorem test_decode16 : decode16 .little [0xFB, 0x02] = 763 ∧ decode16 .little [0x02, 0xFB] = 64258 := by decide

/-- The values Init writes under the default bit positions (41_transceiver_config.md R161, R162), for the Child and the
Parent; the payload width under another layout (92_eei_decisions.md D14). -/
theorem test_init_values : (initValues Cfg.reference).map Prod.snd = [0x0E, 0x00, 0x01, 0x07, 0x02, 0x4C, 0x00]
    ∧ ((initValues { Cfg.reference with role := .parent }).map Prod.snd).head? = some 0x0F
    ∧ ({ Cfg.reference with loRxPw := 2 } : Cfg).rxPwInit = 0x02 := by decide

/-- R262 under the default positions: a reserved bit, an address width without a meaning, a payload width above 32. -/
theorem test_legal_values : legalValue Cfg.reference 0x00 0x7F = true ∧ legalValue Cfg.reference 0x00 0x80 = false
    ∧ legalValue Cfg.reference 0x03 0x03 = true ∧ legalValue Cfg.reference 0x03 0x00 = false
    ∧ legalValue Cfg.reference 0x06 0x1F = true ∧ legalValue Cfg.reference 0x06 0x20 = false
    ∧ legalValue Cfg.reference 0x11 0x20 = true ∧ legalValue Cfg.reference 0x11 0x21 = false := by decide

/-! Bus opcodes: the frames of V1, V3, V26, V22, V9, V10, V8. -/

theorem test_bus_read : answered (.rRegister 0x05 [0xFF]) State.reset = some (some (okWith 0x0E [0x02])) := by decide
theorem test_bus_write : (ran (.wRegister 0x05 [0x4C]) State.reset).map (fun t => t.dev.cell t.cfg 0x05 0)
    = some (some (.known 0x4C)) := by decide
/-- R255: one byte and two at a read-only address. -/
theorem test_bus_write_read_only : (ran (.wRegister 0x08 [1]) State.reset).map (fun t => t.dev.cell t.cfg 0x08 0)
    = some (some (.known 0x00)) ∧ (ran (.wRegister 0x08 [1, 2]) State.reset).map (fun t => t.dev.cell t.cfg 0x08 0)
    = some (some .unsettled) := by decide
theorem test_bus_read_payload :
    answered (.rRxPayload [0xFF, 0xFF]) (flagged true false false (queued [] [[0xFB, 0x02]] State.reset))
      = some (some (okWith 0x40 [0xFB, 0x02])) := by decide
theorem test_bus_write_payload : (ran (.wTxPayload [0xFB, 0x02]) State.reset).map (fun t => t.dev.txFifo)
    = some [[0xFB, 0x02]] := by decide
theorem test_bus_flush_tx : (ran (.busFlushTx []) (queued [[1]] [] State.reset)).map (fun t => (t.resp, t.dev.txFifo))
    = some (some (okWith 0x0E []), []) := by decide
theorem test_bus_flush_rx : (ran (.busFlushRx []) (flagged true false false (queued [] [[1]] State.reset))).map
    (fun t => (t.resp, t.dev.rxFifo, t.dev.dataReceived)) = some (some (okWith 0x40 []), [], true) := by decide
theorem test_bus_nop : answered (.busNop []) State.reset = some (some (okWith 0x0E [])) := by decide
theorem test_bus_fault : stepFault (presented (.frame [0x50,
    0xFF]) State.reset) = some (.device (.badOpcode 0x50)) := by decide

/-! RegisterInterface. -/

/-- V1. -/
theorem test_read_register : shown (.readRegister 0x00) State.reset =
    some (some (okWith 0x08 []), [.csnAssert, .xchg 0x00 (some 0x0E), .xchg 0xFF (some 0x08), .csnDeassert]) := by decide
/-- R256: the status register is written. -/
theorem test_write_status : (ran (.writeRegister 0x07 0x60) (flagged true true true State.reset)).map
    (fun t => (t.dev.dataReceived, t.dev.dataSent, t.dev.maxRetransmit)) = some (false, false, true) := by decide
/-- V6. -/
theorem test_read_status : (ran (.readRegister 0x07) (flagged false true false State.reset)).map
    (fun t => (t.resp, t.dev.dataSent)) = some (some (okWith 0x2E []), true) := by decide
/-- V3. -/
theorem test_write_register : (ran (.writeRegister 0x05 0x4C) State.reset).map (fun t => (t.dev.cell t.cfg 0x05 0,
    t.cached 0x05))
    = some (some (.known 0x4C), none) := by decide
/-- V4. -/
theorem test_write_highest : shown (.writeRegister 0x1D 0x00) State.reset =
    some (some (okWith 0 []), [.csnAssert, .xchg 0x3D none, .xchg 0x00 none, .csnDeassert]) := by decide
/-- V10. -/
theorem test_write_command : (ran (.writeCommand 0xE2) (flagged true false false (queued [] [[1]] State.reset))).map
    (fun t => (t.resp, t.dev.rxFifo, t.dev.statusByte t.cfg)) = some (some (okWith 0x40 []), [], 0x4E) := by decide
/-- V11. -/
theorem test_bad_command : shown (.writeCommand 0x61) State.reset = some (some (refusedWith .badCommand), []) := by decide
/-- V12. -/
theorem test_burst : (ran (.writeRegisterBurst 0x10 5 (buffer32 [1, 2, 3, 4, 5])) State.reset).map
    (fun t => (t.dev.cell t.cfg 0x10 0, t.dev.txAddrRest)) =
      some (some (.known 1), #v[.known 2, .known 3, .known 4, .known 5]) := by decide
/-- V84. -/
theorem test_burst_refused : answered (.writeRegisterBurst 0x1E 4 (buffer32 [])) State.reset
    = some (some (refusedWith .badAddress)) := by decide

/-! TransceiverConfig. -/

/-- V14. -/
theorem test_write_validated : (ran (.writeValidated 0x04 0x00) State.reset).map
    (fun t => (t.resp, t.cached 0x04, t.dev.cell t.cfg 0x04 0)) = some (some (okWith 0 []), some 0x00,
    some (.known 0x00)) := by decide
/-- V15. -/
theorem test_write_validated_stuck : (ran (.writeValidated 0x04 0x00) (stuckAt [0x04] State.reset)).map
    (fun t => (t.resp, t.cached 0x04, framesOpened t.trace)) =
      some (some { outcome := .fail, d := 0, buf := [] }, none, 2) := by decide
/-- P1. -/
theorem test_init : (ran .init State.reset).map (fun t => (t.resp, t.cache, framesOpened t.trace, t.initialised)) =
    some (some (okWith 0 []), fileMap some childBytes, 45, true) := by decide
/-- P5. -/
theorem test_init_stuck : (ran .init (stuckAt [0x05] State.reset)).map (fun t => (t.resp, t.cache)) =
    some (some { outcome := .fail, d := 0x20, buf := [] }, fileSet (fileMap some childBytes) 5 (some 0x02)) := by decide

/-! PacketIO. -/

/-- V22. -/
theorem test_write_fifo : (ran (.writeFifo 2 (buffer32 [0xFB, 0x02])) State.reset).map (fun t => (t.dev.txFifo,
    t.trace.reverse)) =
    some ([[0xFB, 0x02]], [.csnAssert, .xchg 0xA0 none, .xchg 0xFB none, .xchg 0x02 none, .csnDeassert]) := by decide
/-- V24. -/
theorem test_write_fifo_long : shown (.writeFifo 33 (buffer32 [])) State.reset = some (some (refusedWith .badLength),
    []) := by
  decide
/-- V26. -/
theorem test_read_fifo : (ran (.readFifo 2) (flagged true false false (queued [] [[0xFB, 0x02]] State.reset))).map
    (fun t => (t.resp, t.dev.rxFifo, t.dev.statusByte t.cfg)) = some (some (okWith 0 [0xFB, 0x02]), [], 0x4E) := by decide
/-- V25. -/
theorem test_read_fifo_none : shown (.readFifo 0) State.reset = some (some (okWith 0 []), []) := by decide
/-- V29. -/
theorem test_flush_tx : (ran .flushTx (flagged false true false (queued [[1], [2]] [] State.reset))).map
    (fun t => (t.dev.txFifo, t.dev.dataSent)) = some ([], true) := by decide
/-- V30. -/
theorem test_flush_rx : (ran .flushRx (flagged true false false (queued [[1]] [[2]] State.reset))).map
    (fun t => (t.dev.txFifo, t.dev.rxFifo, t.dev.dataReceived)) = some ([[1]], [], true) := by decide
/-- V32. -/
theorem test_clear_flags : (ran (.clearFlags 0x20) (flagged true true false State.reset)).map
    (fun t => t.dev.statusByte t.cfg) = some 0x4E := by decide
/-- V32b. -/
theorem test_clear_flags_mask : (ran (.clearFlags 0xFF) State.reset).map (fun t => bytesSent t.trace) = some [0x70,
    0x27] := by
  decide
/-- P2. -/
theorem test_send : (ran (.send 2 (buffer32 [0xFB, 0x02])) node).map
    (fun t => (t.resp, t.air, t.dev.txFifo, t.ce)) = some (some (okWith 0 []), [airFrame], [], .low) := by decide
/-- V39. -/
theorem test_send_fails : (ran (.send 2 (buffer32 [0xFB, 0x02])) (stuckAt [0x00] (nodeOf (fileSet childBytes 0 0x0F)))).map
    (fun t => (t.resp, framesOpened t.trace, t.air)) = some (some { outcome := .fail, d := 0, buf := [] }, 3,
    []) := by decide
/-- V34. -/
theorem test_start : (ran (.start 2 (buffer32 [0xFB, 0x02])) node).map (fun t => (t.dev.txFifo, t.ce, bytesSent t.trace)) =
    some ([[0xFB, 0x02]], .low, [0x02, 0xFB, 0xA0, 0xE1, 0xFF, 0x00, 0x0E, 0x20, 0x70, 0x27]) := by decide
/-- R183: no byte, nothing loaded. -/
theorem test_start_empty : (ran (.start 0 (buffer32 [])) (queued [[1]] [] node)).map (fun t => (t.resp, t.dev.txFifo)) =
    some (some (okWith 0 []), []) := by decide
/-- V81 to V83: the order of the reasons. -/
theorem test_start_refused :
    answered (.start 40 (buffer32 [])) { State.reset with ce := .high } = some (some (refusedWith .notInitialised))
    ∧ answered (.start 40 (buffer32 [])) { node with ce := .high } = some (some (refusedWith .enableHigh))
    ∧ answered (.start 40 (buffer32 [])) node = some (some (refusedWith .badLength)) := by decide
/-- V33, R269. -/
theorem test_initiate : (ran .initiate (putCfg (fun c => { c with txCompletes := false }) (queued [[0xFB,
    0x02]] [] node))).map
    (fun t => (t.trace.reverse, t.dev.burst)) =
      some ([.ceHigh, .wait 10, .ceLow], some { frame := airFrame, held := true }) := by decide
/-- V35, its last poll. -/
theorem test_end : (ran .endSend (flagged false true false node)).map (fun t => (t.resp, t.dev.dataSent)) =
    some (some (okWith 0x2E []), false) := by decide
/-- V36: no response, the sequencer is not idle. -/
theorem test_end_waits : (ran .endSend node).map (fun t => (t.resp, t.seq.length, framesOpened t.trace)) =
    some (none, 1, 1) := by decide

/-! ModeController. -/

/-- V40. -/
theorem test_set_mode_bit : (ran (.setModeBit 1) node).map (fun t => (bytesSent t.trace, t.cached 0x00, t.ce)) =
    some ([0xFF, 0x00, 0x0F, 0x20], some 0x0F, .low) := by decide
/-- V46. -/
theorem test_set_mode_bit_unpowered : (ran (.setModeBit 1) (nodeOf (fileSet childBytes 0 0x08))).map
    (fun t => t.dev.cell t.cfg 0x00 0) = some (some (.known 0x09)) := by decide
/-- V42. -/
theorem test_start_listening : (ran .startListening node).map (fun t => (t.resp, t.cached 0x00, t.ce)) =
    some (some (okWith 0 []), some 0x0F, .high) := by decide
/-- V45. -/
theorem test_start_listening_fails : (ran .startListening (stuckAt [0x00] node)).map (fun t => (t.resp, t.cached 0x00,
    t.ce)) =
    some (some { outcome := .fail, d := 0, buf := [] }, some 0x0E, .low) := by decide
/-- R214: raising a line that is high already changes nothing, though this device could transmit. -/
theorem test_raised_again : let s := queued [[0xFB, 0x02]] [] { node with ce := .high }
    s.raised = s ∧ ({ s with ce := .low } : State).raised.dev.burst ≠ none := by decide
/-- V43. -/
theorem test_stop_listening : shown .stopListening listener =
    some (some (okWith 0x0E []), [.ceLow, .csnAssert, .xchg 0xE2 (some 0x0E), .csnDeassert]) := by decide
/-- V44. -/
theorem test_get_mode :
    answered .getMode (nodeOf (fileSet childBytes 0 0x08)) = some (some (okWith 0 []))
    ∧ answered .getMode node = some (some (okWith 1 []))
    ∧ answered .getMode { node with ce := .high } = some (some (okWith 2 []))
    ∧ answered .getMode listener = some (some (okWith 3 [])) := by decide

/-! TelemetryLoop. -/

/-- R233. -/
theorem test_poll_received : answered .pollReceived (flagged true false false node) = some (some (okWith 1 []))
    ∧ answered .pollReceived node = some (some (okWith 0 [])) := by decide
/-- P3. -/
theorem test_boot : (ran .boot (putCfg (fun c => { c with role := .parent }) State.reset)).map
    (fun t => (t.resp, t.cached 0x00, t.ce, t.tickArmed, framesOpened t.trace)) =
      some (some (okWith 0 []), some 0x0F, .high, true, 48) := by decide
/-- P1, after BoardInit: the Child's line low, its configuration byte 0x0E, after the 45 frames of Init. -/
theorem test_boot_child : (ran .boot State.reset).map (fun t => (t.resp, t.cached 0x00, t.ce, framesOpened t.trace)) =
    some (some (okWith 0 []), some 0x0E, .low, 45) := by decide
/-- V72, its second tick, with the reading 763 of V61. -/
theorem test_child_tick : (ran .childTick { node with tickdiv := 1, sensor := [763] }).map
    (fun t => (t.tickdiv, t.air.map AirFrame.payload, alerts .overThreshold t.trace)) = some (0, [[0xFB, 0x02]],
    1) := by decide
/-- V72, its first tick. -/
theorem test_child_tick_divides : (ran .childTick node).map (fun t => (t.tickdiv, t.trace)) = some (1, []) := by decide
/-- P3, its second tick. -/
theorem test_parent_tick :
    (ran .parentTick { flagged true false false (queued [] [[0xFB, 0x02]] listener) with countdown := 9 }).map
      (fun t => (t.countdown, t.ce, alerts .overThreshold t.trace, (bytesSent t.trace).reverse)) =
        some (10, .high, 1, [0xFF, 0x61, 0xFF, 0xFF, 0xE2, 0x27, 0x70, 0x20, 0x0F, 0x00, 0xFF]) := by decide
/-- V70, its tenth tick. -/
theorem test_parent_tick_alert : (ran .parentTick { listener with countdown := 1 }).map
    (fun t => (t.countdown, alerts .linkDown t.trace)) = some (10, 1) := by decide

/-! Steps. -/

/-- V80. -/
theorem test_unknown_op : (stepNext (presented (.request [0x15]) State.reset)).map (fun t => (t.inbox, t.resp, t.trace)) =
    some (none, some (refusedWith .unknownOp), []) := by decide
/-- R103: a request while an operation runs. -/
theorem test_busy : ((ran .endSend node).bind (ran .getMode)).map State.resp = some (some (refusedWith .busy)) := by decide
/-- R271 on the frame of program P2. -/
theorem test_receive : (stepNext { listener with air := [airFrame], env := [[.airOffer 0 0x01]] }).map
    (fun t => (t.air, t.dev.rxFifo, t.dev.dataReceived)) = some ([], [[0xFB, 0x02]], true) := by decide

/-- R336: the same frame, receive pipe 0 disabled. -/
theorem test_receive_pipe_disabled :
    (stepNext { withPipes 0x02 listener with air := [airFrame], env := [[.airOffer 0 0x01]] }).map
      (fun t => (t.air, t.dev.rxFifo, t.dev.dataReceived)) = some ([], [], false) := by decide
/-- R270: a burst whose payload was flushed leaves the FIFO alone. -/
theorem test_transmit_complete_flushed :
    (stepNext { burstingWith false (queued [[7]] [] node) with env := [[.transmitComplete]] }).map
      (fun t => (t.air, t.dev.txFifo, t.dev.dataSent)) = some ([airFrame], [[7]], true) := by decide

/-! Witnesses: for each obligation with hypotheses, states and operands that meet them all, one for each clause. -/

theorem reference_mapped : Cfg.reference.mapped = true := by decide
theorem node_ready : Ready node := ⟨rfl, rfl, reference_mapped⟩
theorem node_quiet : Quiet node := ⟨rfl, rfl⟩
theorem node_takes_config : Takes node node.cfg.regConfig := ⟨rfl, by decide⟩
theorem node_takes_status : Takes node node.cfg.regStatus := ⟨rfl, by decide⟩

/-- Five fixed opcodes other than the defaults. -/
def otherOpcodes : Opcodes :=
  { opcRRxPayload := 0x80, opcWTxPayload := 0x40, opcFlushTx := 0xFF, opcFlushRx := 0x7F, opcNop := 0xC0 }

/-- DecodeEncodeRoundTrip; DecodedIsWellFormedAndUnambiguous: the opcodes that opcode_table.json lists, and others. -/
theorem witness_DecodeEncodeRoundTrip : (Instr.send 2 (buffer32 [0xFB, 0x02])).wellFormed = true ∧
    Opcodes.family.ok = true ∧ otherOpcodes.ok = true ∧ decode otherOpcodes (.request [0x06]) = .ok .init ∧
    decode otherOpcodes (.frame [0x3D, 0x00]) = .ok (.wRegister 0x1D [0x00]) ∧
    decode otherOpcodes (.frame [0x40, 0xFB, 0x02]) = .ok (.wTxPayload [0xFB, 0x02]) := by decide

/-- FirstByteMap, each clause at the ends of its range. -/
theorem witness_FirstByteMap : otherOpcodes.ok = true ∧ (List.replicate 32 (0 : Byte)).length ≤ 32 ∧ (0x1D#8 ≤ 0x1D) ∧
    (0x20#8 ≤ 0x20 ∧ 0x20#8 ≤ 0x3D) ∧ (0x20#8 ≤ 0x3D ∧ 0x3D#8 ≤ 0x3D) ∧ 0x40 = otherOpcodes.opcWTxPayload ∧
    (∀ op ∈ [0x1E#8, 0x1F#8, 0x3E#8, 0x3F#8, 0x61#8], 0x1D#8 < op ∧ ¬ (0x20#8 ≤ op ∧ op ≤ 0x3D) ∧
    op ∉ otherOpcodes.all) := by
  decide

/-- UnknownCodesAreRefused, at the ends of each range; a busy engine. -/
theorem witness_UnknownCodesAreRefused : (∀ op ∈ [0x00#8, 0x15#8, 0x1F#8, 0x23#8, 0xFF#8],
    op = 0x00 ∨ (0x15#8 ≤ op ∧ op ≤ 0x1F) ∨ 0x23#8 ≤ op) ∧
    (∀ op ∈ [0x01#8, 0x14#8, 0x20#8, 0x22#8], (0x01#8 ≤ op ∧ op ≤ 0x14) ∨ (0x20#8 ≤ op ∧ op ≤ 0x22)) ∧
    (presented (.request [0x15, 0, 0]) node).dev.fault = none ∧
    (presented (.request [0x15, 0, 0]) node).inbox = some (.request [0x15, 0, 0]) ∧
    ((ran .endSend node).map fun t => decide (t.seq ≠ [] ∧ t.dev.fault = none)) = some true := by decide

/-- StepRunsDecodedInstruction. -/
theorem witness_StepRunsDecodedInstruction : (presented (.request [0x13]) node).dev.fault = none ∧
    (presented (.request [0x13]) node).inbox = some (.request [0x13]) ∧
    decode (presented (.request [0x13]) node).cfg.toOpcodes (.request [0x13]) = .ok .getMode ∧
    node.cfg.toOpcodes = Opcodes.family ∧ decodeTableWord 8 0x13 = some .getMode := by decide

/-- BusRegisterRead: an ordinary register, the first byte of the status register, the highest address. -/
theorem witness_BusRegisterRead : (Ready node ∧ Quiet node) ∧ node.cfg.present = true ∧ node.dev.fault = none ∧
    busAddressOk 0x1D = true ∧ node.dev.cell node.cfg ((0x1D#5).setWidth 8) 0 = some (.known 0x00) ∧
    node.dev.cell node.cfg ((0x10#5).setWidth 8) 4 = some (.known 0xE7) ∧
    node.dev.cell node.cfg ((0x07#5).setWidth 8) 0 = some (.known 0x0E) :=
  ⟨⟨node_ready, node_quiet⟩, by decide⟩

/-- BusRegisterWrite: each clause. -/
theorem witness_BusRegisterWrite : Ready (stuckAt [0x05] node) ∧ Ready node ∧ Quiet node ∧ node.cfg.present = true ∧
    node.dev.fault = none ∧ busAddressOk 0x05 = true ∧ 0x05#8 ∈ (stuckAt [0x05] node).cfg.stuck ∧
    0x08#8 ∈ node.cfg.readOnlyRegs ∧ [1#8].length ≤ 1 ∧ 0x05#8 ∉ node.cfg.stuck ∧ 0x05#8 ∉ node.cfg.readOnlyRegs ∧
    0x05#8 ≠ node.cfg.regStatus ∧ isFiveByte node.cfg 0x05 = false ∧ isFiveByte node.cfg 0x08 = false ∧
    2 ≤ [1#8, 2#8].length ∧ legalValue node.cfg 0x05 0x7F = true ∧ legalValue node.cfg 0x05 0x80 = false ∧
    isFiveByte node.cfg 0x10 = true ∧ isFiveByte node.cfg 0x0A = true ∧ 5 < [1#8, 2, 3, 4, 5, 6].length ∧
    0x07#8 = node.cfg.regStatus := ⟨⟨rfl, rfl, reference_mapped⟩, node_ready, node_quiet, by decide⟩

/-- BusPayloadRead, with a payload and without. -/
theorem witness_BusPayloadRead : Ready (queued [] [[0xFB, 0x02]] node) ∧ Quiet (queued [] [[0xFB, 0x02]] node) ∧
    (queued [] [[0xFB, 0x02]] node).cfg.present = true ∧ (queued [] [[0xFB, 0x02]] node).dev.fault = none ∧
    (queued [] [[0xFB, 0x02]] node).dev.rxFifo = [0xFB, 0x02] :: [] := ⟨⟨rfl, rfl, reference_mapped⟩, ⟨rfl, rfl⟩, by decide⟩

/-- BusPayloadWrite, at 32 bytes; BusFixedCommands. -/
theorem witness_BusPayloadWrite : (List.replicate 32 (1 : Byte)).length ≤ 32 ∧ Ready node ∧ Quiet node ∧
    node.cfg.present = true ∧ node.dev.fault = none := ⟨by decide, node_ready, node_quiet, by decide⟩

/-- DeviceFaultStops, each clause. -/
theorem witness_DeviceFaultStops :
    (Ready (presented (.frame [0x50]) node) ∧ (presented (.frame [0x50]) node).cfg.present = true ∧
      (presented (.frame [0x50]) node).dev.fault = none ∧ decodeOpcode node.cfg.toOpcodes 0x50 = none) ∧
    (Ready (presented (.frame (0xA0 :: List.replicate 33 0)) node) ∧ 0xA0 = node.cfg.opcWTxPayload ∧
      32 < (List.replicate 33 (0 : Byte)).length) ∧
    (putDev (fun d => { d with fault := some (.badOpcode 0x50) }) node).dev.fault = some (.badOpcode 0x50) :=
  ⟨⟨⟨rfl, rfl, reference_mapped⟩, by decide⟩, ⟨⟨rfl, rfl, reference_mapped⟩, by decide⟩, rfl⟩

/-- EngineNeverFaultsTheDevice; the frames of the machine: an instruction answers a next state. -/
theorem witness_exec_next : isRequest .getMode = true ∧ (∃ t, exec .getMode node = .next t) ∧
    mayStore node.cfg 0x00 .getMode = false ∧
    mayCache node.cfg 0x00 .getMode = false ∧ mayMoveLine .getMode = false ∧ mayFlag node.cfg .getMode = false ∧
    mayTxFifo node.cfg .getMode = false ∧
    mayRxFifo node.cfg .getMode = false ∧ Quiet node ∧ node.cfg.mapped = true :=
  ⟨rfl, ⟨_, rfl⟩, rfl, rfl, rfl, rfl, rfl, rfl, node_quiet, reference_mapped⟩

/-- RefusedInOrder: a busy engine, and each row of the table of refusals. -/
theorem witness_RefusedInOrder : ((ran .endSend node).map fun t => decide (t.seq ≠ [])) = some true ∧ node.seq = [] ∧
    refusal node (.readRegister 0x1E) = some .badAddress ∧ refusal node (.writeRegisterBurst 0x1D 4 []) = some .badLength ∧
    refusal node (.writeCommand 0x61) = some .badCommand ∧ refusal node (.readFifo 33) = some .badLength ∧
    refusal State.reset (.send 40 []) = some .notInitialised ∧ refusal listener (.send 40 []) = some .enableHigh ∧
    refusal node (.send 33 []) = some .badLength ∧ refusal listener .initiate = some .enableHigh ∧
    refusal State.reset .getMode = some .notInitialised := by decide

/-- ReadRegisterReturns, ReadIdempotence: the highest address; an absent device; the status register. -/
theorem witness_ReadRegisterReturns : 0x1D#8 ≤ 0x1D ∧ Ready node ∧ Quiet node ∧ node.cfg.present = true ∧
    0x1D#8 ≠ node.cfg.regStatus ∧ node.dev.cell node.cfg 0x1D 0 = some (.known 0x00) ∧ Ready (absent 0x20 node) ∧
    (absent 0x20 node).cfg.present = false ∧ node.dev.cell node.cfg 0x07 0 = some (.known 0x0E) :=
  ⟨by decide, node_ready, node_quiet, rfl, by decide, by decide, ⟨rfl, rfl, reference_mapped⟩, by decide⟩

/-- WriteRegisterStores, RegisterRoundTrip: a one-byte and a 5-byte register, a legal and an illegal value, a dropped
write. -/
theorem witness_WriteRegisterStores : 0x1D#8 ≤ 0x1D ∧ Ready node ∧ Takes node 0x05 ∧ 0x05#8 ∉ node.cfg.readOnlyRegs ∧
    0x05#8 ≠ node.cfg.regStatus ∧ legalValue node.cfg 0x05 0x4C = true ∧ legalValue node.cfg 0x05 0x80 = false ∧
    isFiveByte node.cfg 0x10 = true ∧
    0x05#8 ∈ (stuckAt [0x05] node).cfg.stuck ∧ (Takes node 0x07 ∧ 0x07 = node.cfg.regStatus ∧ Quiet node) :=
  ⟨by decide, node_ready, ⟨rfl, by decide⟩, by decide, by decide, by decide, by decide, by decide, by decide,
    node_takes_status, rfl, node_quiet⟩

/-- CommandsReturnStatus: each command, and the three operations. -/
theorem witness_CommandsReturnStatus : Ready node ∧ Quiet node ∧ node.ce = .low ∧ (∀ c ∈ [0xE1#8, 0xE2#8, 0xFF#8],
    (Instr.writeCommand c = .writeCommand c ∧
      (c = node.cfg.opcFlushTx ∨ c = node.cfg.opcFlushRx ∨ c = node.cfg.opcNop))) ∧
    (Instr.flushTx = .flushTx ∧ 0xE1#8 = node.cfg.opcFlushTx) ∧ (Instr.flushRx = .flushRx ∧ 0xE2#8 = node.cfg.opcFlushRx) ∧
    ((flagged true true true node).dev.dataReceived = true ∧ (flagged true true true node).dev.dataSent = true) :=
  ⟨node_ready, node_quiet, rfl, by decide, by decide, by decide, by decide⟩

/-- WriteRegisterBurstStores: a 5-byte register and another one. -/
theorem witness_WriteRegisterBurstStores : 0x1D#8 ≤ 0x1D ∧ Ready node ∧ 5 ≤ (buffer32 [1, 2, 3, 4, 5]).length ∧
    Takes node 0x10 ∧
    isFiveByte node.cfg 0x10 = true ∧ Takes node 0x05 ∧ isFiveByte node.cfg 0x05 = false ∧ Takes node 0x17 ∧
    isFiveByte node.cfg 0x17 = false :=
  ⟨by decide, node_ready, by decide, ⟨rfl, by decide⟩, by decide, ⟨rfl, by decide⟩, by decide, ⟨rfl, by decide⟩, by decide⟩

/-- WriteValidatedChecksReadBack: a register that takes the write, one that drops it, no device. -/
theorem witness_WriteValidatedChecksReadBack : Ready node ∧ Takes node 0x04 ∧ 0x04#8 ∉ node.cfg.readOnlyRegs ∧
    0x04#8 ≠ node.cfg.regStatus ∧ legalValue node.cfg 0x04 0x00 = true ∧ Ready (stuckAt [0x04] State.reset) ∧
    (stuckAt [0x04] State.reset).cfg.present = true ∧ 0x04#8 ∈ (stuckAt [0x04] State.reset).cfg.stuck ∧
    (stuckAt [0x04] State.reset).dev.cell node.cfg 0x04 0 = some (.known 0x03) ∧ (absent 0 node).cfg.present = false :=
  ⟨node_ready, ⟨rfl, by decide⟩, by decide, by decide, by decide, ⟨rfl, rfl, reference_mapped⟩, by decide⟩

/-- InitRunsTheFullSequence, InitResultCode, InitAbsentDevice. -/
theorem witness_Init : Ready State.reset ∧ State.reset.cfg.present = true ∧ State.reset.cfg.legal = true ∧
    State.reset.cfg.stuck = [] ∧ (initValues State.reset.cfg).length = 7 ∧ Ready (stuckAt [0x05] State.reset) ∧
    (stuckAt [0x05] State.reset).cfg.legal = true ∧
    (stuckAt [0x05] State.reset).dev.cell node.cfg 0x05 0 = some (.known 0x02) ∧
    Ready (absent 0x00 State.reset) ∧ (absent 0x00 State.reset).cfg.present = false :=
  ⟨⟨rfl, rfl, reference_mapped⟩, rfl, by decide, rfl, by decide, ⟨rfl, rfl, reference_mapped⟩, by decide, by decide,
    ⟨rfl, rfl, reference_mapped⟩, by decide⟩

/-- WriteFifoLoads, ReadFifoReturnsTheHead: 1 and 32 bytes, a full FIFO and one with room, a payload waiting. -/
theorem witness_WriteFifoLoads : node.seq = [] ∧ (1#8 ≠ 0 ∧ 1#8 ≤ 32 ∧ (1#8).toNat ≤ (buffer32 [0xAB]).length) ∧
    (32#8 ≠ 0 ∧ 32#8 ≤ 32 ∧ (32#8).toNat ≤ (buffer32 []).length) ∧ Ready (queued [[1], [2], [3]] [[0xFB, 0x02]] node) ∧
    Quiet (queued [[1], [2], [3]] [[0xFB, 0x02]] node) ∧ (queued [[1], [2], [3]] [[0xFB, 0x02]] node).cfg.present = true ∧
    Ready node ∧ Quiet node ∧ (absent 0 node).cfg.present = false :=
  ⟨rfl, by decide, by decide, ⟨rfl, rfl, reference_mapped⟩, ⟨rfl, rfl⟩, rfl, node_ready, node_quiet, by decide⟩

/-- ClearFlagsClearsTheMaskedFlags. -/
theorem witness_ClearFlags : Ready (flagged true true true node) ∧ Takes (flagged true true true node) node.cfg.regStatus ∧
    Quiet (flagged true true true node) := ⟨⟨rfl, rfl, reference_mapped⟩, ⟨rfl, by decide⟩, ⟨rfl, rfl⟩⟩

/-- StartLoadsOnePayload (with and without a byte), SendEmitsOneFrame, SetModeBitWritesTheCachedByte,
GetModeReadsTheCache: at 1 and 32 bytes, each mode bit. -/
theorem witness_SendEmitsOneFrame : Ready node ∧ Quiet node ∧ node.initialised = true ∧ node.ce = .low ∧
    (∀ n ∈ [1#8, 32#8], n ≠ 0 ∧ n ≤ 32 ∧ n.toNat ≤ (buffer32 [0xFB, 0x02]).length) ∧ (0#8).toNat ≤ (buffer32 []).length ∧
    1 ≤ node.cfg.txDepth ∧ node.cfg.txCompletes = true ∧ node.cached node.cfg.regConfig = some 0x0E ∧
    0x0E = withBit 0x0E node.cfg.bitPrimRx false ∧ 0x0F = withBit 0x0E node.cfg.bitPrimRx ((1#8).getLsbD 0) ∧
    legalValue node.cfg node.cfg.regConfig 0x0E = true ∧ (0x0E#8).getLsbD node.cfg.bitPwrUp = true ∧
    Takes node node.cfg.regConfig ∧ Takes node node.cfg.regStatus :=
  ⟨node_ready, node_quiet, rfl, rfl, by decide, by decide, by decide, rfl, by decide, by decide, by decide, by decide,
    by decide, node_takes_config, node_takes_status⟩

/-- ModeBitNotTakenStopsTheSend: the state of V39. -/
theorem witness_ModeBitNotTakenStopsTheSend : let s := stuckAt [0x00] (nodeOf (fileSet childBytes 0 0x0F))
    Ready s ∧ s.initialised = true ∧ s.ce = .low ∧ 32#8 ≤ 32 ∧ s.cached s.cfg.regConfig = some 0x0F ∧
      s.cfg.present = true ∧ s.cfg.regConfig ∈ s.cfg.stuck ∧ s.dev.cell s.cfg s.cfg.regConfig 0 = some (.known 0x0F) ∧
      0x0E = withBit 0x0F s.cfg.bitPrimRx false ∧ 0x0F#8 ≠ 0x0E := ⟨⟨rfl, rfl, reference_mapped⟩, by decide⟩

/-- InitiateTriggersOneBurst: a loaded transmitter of either kind, one powered down, one in receive mode, an empty one. -/
theorem witness_InitiateTriggersOneBurst : let s := queued [[0xFB, 0x02]] [] node
    s.seq = [] ∧ Quiet s ∧ s.ce = .low ∧ s.cfg.present = true ∧ s.dev.cell s.cfg s.cfg.regConfig 0 = some (.known 0x0E) ∧
      (0x0E#8).getLsbD s.cfg.bitPwrUp = true ∧ (0x0E#8).getLsbD s.cfg.bitPrimRx = false ∧
      s.dev.txFifo = [0xFB, 0x02] :: [] ∧ s.cfg.txCompletes = true ∧
      (putCfg (fun c => { c with txCompletes := false }) s).cfg.txCompletes = false ∧
      (0x0C#8).getLsbD s.cfg.bitPwrUp = false ∧ (0x0F#8).getLsbD s.cfg.bitPrimRx = true ∧ node.dev.txFifo = [] ∧
      node.seq = [] ∧ node.ce = .low := ⟨rfl, ⟨rfl, rfl⟩, by decide⟩

/-- EndReturnsOnDataSent, both clauses. -/
theorem witness_EndReturnsOnDataSent : Ready (flagged false true false node) ∧ Quiet (flagged false true false node) ∧
    Takes (flagged false true false node) node.cfg.regStatus ∧ (flagged false true false node).dev.dataSent = true ∧
    Ready (absent 0x20 node) ∧ (absent 0x20 node).cfg.present = false ∧
    (absent 0x20 node).cfg.absentByte.getLsbD (absent 0x20 node).cfg.bitTxDs = true :=
  ⟨⟨rfl, rfl, reference_mapped⟩, ⟨rfl, rfl⟩, ⟨rfl, by decide⟩, rfl, ⟨rfl, rfl, reference_mapped⟩, by decide⟩

/-- TheDataSentPollHangs, the clauses about the poll. -/
theorem witness_TheDataSentPollHangs : (Ready node ∧ Quiet node ∧ node.inbox = none ∧ node.cfg.present = true ∧
    node.dev.fault = none ∧ node.dev.dataSent = false) ∧
    (Ready (absent 0x00 node) ∧ (absent 0x00 node).inbox = none ∧ (absent 0x00 node).cfg.present = false ∧
      (absent 0x00 node).dev.fault = none ∧
      (absent 0x00 node).cfg.absentByte.getLsbD (absent 0x00 node).cfg.bitTxDs = false) ∧
    (node.initialised = true ∧ node.ce = .low ∧ node.cached node.cfg.regConfig = some 0x0E ∧
      legalValue node.cfg node.cfg.regConfig 0x0E = true ∧ Takes node node.cfg.regConfig ∧ Takes node node.cfg.regStatus) :=
  ⟨⟨node_ready, node_quiet, by decide⟩, ⟨⟨rfl, rfl, reference_mapped⟩, by decide⟩, rfl, rfl, by decide, by decide,
    node_takes_config,
    node_takes_status⟩

/-- The node with a device that shifts no further byte. -/
def stalled (s : State) : State := { s with port := { s.port with left := some 0 } }

/-- TheDataSentPollHangs, the clauses about an exchange: a state that waits in one, at the first exchange of an operation, of a
raw frame, and deep in Boot; and the instructions that come to wait. -/
theorem witness_ExchangeHangs :
    (∃ t, exec (.writeCommand 0xFF) (stalled node) = .next t ∧ Halted .shift t ∧ t.dev.fault = none) ∧
    (∃ t, exec (.rRegister 0 [0]) (stalled node) = .next t ∧ Halted .shift t ∧ t.dev.fault = none) ∧
    (∃ t, exec .boot (stalled State.reset) = .next t ∧ Halted .shift t ∧ t.dev.fault = none) ∧
    ∀ i ∈ ([.writeCommand 0xFF, .rRegister 0 [0], .wTxPayload (List.replicate 33 0), .boot, .endSend, .writeFifo 1 (buffer32 []),
        .readFifo 32, .start 0 (buffer32 []), .stopListening, .parentTick] : List Instr),
      (stalled node).seq = [] ∧ (stalled node).port.left = some 0 ∧ (stalled node).dev.fault = none ∧
        refusal (stalled node) i = none ∧ exchanges i = true :=
  ⟨⟨_, rfl, ⟨rfl, rfl, rfl⟩, rfl⟩, ⟨_, rfl, ⟨rfl, rfl, rfl⟩, rfl⟩, ⟨_, rfl, ⟨rfl, rfl, rfl⟩, rfl⟩, by decide⟩

/-- An operation waiting in the poll of End, inside the callers given. -/
def polling (callers : List Position) (s : State) : State :=
  { s with
    seq := { task := .op .endSend, k := 0, loc := Locals.start } :: callers }

/-- A Send as a caller. -/
def sendPosition : Position := { task := .op (.send 2 (buffer32 [0xFB, 0x02])), k := 2, loc := Locals.start }

/-- The Child's tick as a caller, with the reading given. -/
def tickPosition (r : Reading) : Position := { task := .op .childTick, k := 2, loc := { Locals.start with reading := r } }

/-- EndTerminatesUnderFairness, first and second clause: a schedule of three gaps; End alone, in Send, and in Send in the
Child's tick with a reading on each side of the threshold; a burst in progress. -/
theorem witness_EndTerminates :
    (let s := { bursting node with env := [[], [.airAdd airFrame], []] };
    Ready s ∧ Takes s s.cfg.regStatus ∧ s.dev.fault = none ∧ s.inbox = none ∧ s.cfg.txCompletes = true ∧
    s.dev.burst ≠ none) ∧
    ∀ callers ∈ [[], [sendPosition], [sendPosition, tickPosition 762], [sendPosition, tickPosition 763]],
      let s := polling callers { bursting node with env := [[], [.transmitComplete], []] }
      PollingTasks s.seq ∧ (∃ p, s.seq = p :: callers ∧ p.polls = true) ∧ ExchangesComplete s ∧ s.cfg.mapped = true ∧
        Takes s s.cfg.regStatus ∧ s.dev.fault = none ∧ s.inbox = none ∧ s.cfg.txCompletes = true ∧
        (s.dev.burst ≠ none ∨ s.dev.dataSent = true) := by
  refine ⟨⟨⟨rfl, rfl, reference_mapped⟩, ⟨rfl, by decide⟩, by decide⟩, fun callers h => ⟨?_, ⟨_, rfl, rfl⟩, rfl,
    reference_mapped, ⟨rfl, ?_⟩, rfl, rfl, rfl,
    .inl nofun⟩⟩
  · simp only [List.mem_cons, List.not_mem_nil, or_false] at h
    obtain rfl | rfl | rfl | rfl := h
    · exact .inl rfl
    · exact .inr (.inl ⟨_, _, rfl⟩)
    · exact .inr (.inr ⟨_, _, rfl⟩)
    · exact .inr (.inr ⟨_, _, rfl⟩)
  · exact (by decide : node.cfg.regStatus ∉ node.cfg.stuck)

/-- EndTerminatesUnderFairness, third and fourth clause: Send and the Child's tick under a schedule of three gaps. -/
theorem witness_SendTerminates :
    let s := { node with env := [[], [.airAdd airFrame], []], tickdiv := 1, sensor := [763] }
    Ready s ∧ s.initialised = true ∧ s.ce = .low ∧ (32#8 ≠ 0 ∧ 32#8 ≤ 32 ∧ (32#8).toNat ≤ (buffer32 []).length) ∧
      1 ≤ s.cfg.txDepth ∧ s.tickdiv + 1 = s.cfg.childDiv ∧ s.cached s.cfg.regConfig = some 0x0E ∧
      legalValue s.cfg s.cfg.regConfig 0x0E = true ∧ (0x0E#8).getLsbD s.cfg.bitPwrUp = true ∧ Takes s s.cfg.regConfig ∧
      Takes s s.cfg.regStatus ∧ s.dev.fault = none ∧ s.inbox = none ∧ s.cfg.txCompletes = true :=
  ⟨⟨rfl, rfl, reference_mapped⟩, rfl, rfl, by decide, by decide, rfl, by decide, by decide, by decide, ⟨rfl,
    by decide⟩, ⟨rfl, by decide⟩, by decide⟩

/-- StartListeningRaisesTheLineLast: a device that takes the write, one that does not, a line that is high already. -/
theorem witness_StartListening : (Ready node ∧ node.initialised = true ∧ node.cached node.cfg.regConfig = some 0x0E ∧
    0x0F = withBit 0x0E node.cfg.bitPrimRx true ∧ Takes node node.cfg.regConfig ∧
    legalValue node.cfg node.cfg.regConfig 0x0E = true ∧ Takes node node.cfg.regStatus ∧ Quiet node) ∧
    (Ready (stuckAt [0x00] node) ∧ (stuckAt [0x00] node).initialised = true) ∧
    (Ready listener ∧ listener.initialised = true ∧ listener.cached listener.cfg.regConfig = some 0x0F ∧
      0x0F = withBit 0x0F listener.cfg.bitPrimRx true ∧ listener.ce = .high ∧ Quiet listener) :=
  ⟨⟨node_ready, rfl, by decide, by decide, node_takes_config, by decide, node_takes_status, node_quiet⟩, ⟨⟨rfl, rfl,
    reference_mapped⟩, rfl⟩,
    ⟨rfl, rfl, reference_mapped⟩, rfl, by decide, by decide, rfl, rfl, rfl⟩

/-- BootInitialisesAndArms: either role, with a device that takes every write, with a configuration register that keeps its
byte, and with no device, whose byte has the receive bit or not; a first and a last validated register. -/
theorem witness_Boot : (∀ s ∈ [node, listener], Ready s ∧ s.cfg.present = true ∧ s.cfg.legal = true ∧ s.cfg.stuck = []) ∧
    node.cfg.role = .child ∧ listener.cfg.role = .parent ∧
    (∀ s ∈ [stuckAt [0x00, 0x01] node, stuckAt [0x00, 0x01] listener], Ready s ∧ s.cfg.present = true ∧ s.cfg.legal = true ∧
      (∃ h : 0 < (bootValues s.cfg).length, (bootValues s.cfg)[0].1 ∈ s.cfg.stuck) ∧
      (∃ h : 6 < (bootValues s.cfg).length, (bootValues s.cfg)[6].1 ∈ s.cfg.stuck) ∧
      (∃ b, s.dev.cell s.cfg s.cfg.regConfig 0 = some (.known b)) ∧ s.cfg.regTxAddr ∉ s.cfg.stuck) ∧
    (∀ b ∈ [0xFF, 0x00], ∀ s ∈ [absent b node, absent b listener], Ready s ∧ s.cfg.present = false) := by
  refine ⟨fun s h => ?_, rfl, rfl, fun s h => ?_, fun b _ s h => ?_⟩
  · simp only [List.mem_cons, List.not_mem_nil, or_false] at h
    obtain rfl | rfl := h <;> exact ⟨⟨rfl, rfl, reference_mapped⟩, by decide⟩
  · simp only [List.mem_cons, List.not_mem_nil, or_false] at h
    obtain rfl | rfl := h <;>
      exact ⟨⟨rfl, rfl, reference_mapped⟩, rfl, by decide, ⟨by decide, by decide⟩, ⟨by decide, by decide⟩, ⟨_, rfl⟩, by decide⟩
  · simp only [List.mem_cons, List.not_mem_nil, or_false] at h
    obtain rfl | rfl := h <;> exact ⟨⟨rfl, rfl, reference_mapped⟩, rfl⟩

/-- StopListeningEmptiesTheFifo, PollReceivedTestsTheFlag. -/
theorem witness_listener : Ready listener ∧ Quiet listener ∧ listener.cfg.present = true ∧ listener.cfg.role = .parent ∧
    listener.cfg.stuck = [] ∧ listener.cfg.legal = true ∧ Ready node ∧ node.cfg.role = .child ∧
    Ready (absent 0xFF listener) ∧
    (absent 0xFF listener).cfg.present = false :=
  ⟨⟨rfl, rfl, reference_mapped⟩, ⟨rfl, rfl⟩, rfl, rfl, rfl, by decide, node_ready, rfl, ⟨rfl, rfl, reference_mapped⟩, rfl⟩

/-- ChildTickSamplesAndSends, first and second clause: a tick that does not sample, one that does, with readings on both
sides of the threshold. -/
theorem witness_ChildTick : (node.seq = [] ∧ node.tickdiv + 1 ≠ node.cfg.childDiv) ∧
    (∀ r ∈ [762#16, 763#16], let s := { node with tickdiv := 1, sensor := [r] }
      Ready s ∧ Quiet s ∧ s.tickdiv + 1 = s.cfg.childDiv ∧ s.nextReading = r ∧ s.initialised = true ∧ s.ce = .low ∧
        1 ≤ s.cfg.txDepth ∧ s.cfg.txCompletes = true ∧ s.cached s.cfg.regConfig = some 0x0E ∧
        legalValue s.cfg s.cfg.regConfig 0x0E = true ∧ (0x0E#8).getLsbD s.cfg.bitPwrUp = true ∧ Takes s s.cfg.regConfig ∧
        Takes s s.cfg.regStatus) := by
  refine ⟨by decide, fun r _ => ⟨⟨rfl, rfl, reference_mapped⟩, ⟨rfl, rfl⟩, rfl, rfl, rfl, rfl, ?_, rfl, ?_, ?_, ?_,
    ⟨rfl, ?_⟩, ⟨rfl, ?_⟩⟩⟩
  · exact (by decide : 1 ≤ node.cfg.txDepth)
  · exact (by decide : node.cached node.cfg.regConfig = some 0x0E)
  · exact (by decide : legalValue node.cfg node.cfg.regConfig 0x0E = true)
  · exact (by decide : (0x0E#8).getLsbD node.cfg.bitPwrUp = true)
  · exact (by decide : node.cfg.regConfig ∉ node.cfg.stuck)
  · exact (by decide : node.cfg.regStatus ∉ node.cfg.stuck)

/-- ChildTickSamplesAndSends, third and fourth clause: an engine that refuses the send, for either reason; a mode bit that
is not taken. No reading is supplied. -/
theorem witness_ChildTickNotSent :
    (let s := { State.reset with tickdiv := 1 };
      s.seq = [] ∧ s.tickdiv + 1 = s.cfg.childDiv ∧ s.initialised = false) ∧
    (let s := { listener with tickdiv := 1 };
      s.seq = [] ∧ s.tickdiv + 1 = s.cfg.childDiv ∧ s.ce = .high) ∧
    (let s := { stuckAt [0x00] (nodeOf (fileSet childBytes 0 0x0F)) with tickdiv := 1 };
      Ready s ∧ s.tickdiv + 1 = s.cfg.childDiv ∧ s.initialised = true ∧ s.ce = .low ∧ s.cached s.cfg.regConfig = some 0x0F ∧
        s.cfg.present = true ∧ s.cfg.regConfig ∈ s.cfg.stuck ∧ s.dev.cell s.cfg s.cfg.regConfig 0 = some (.known 0x0F) ∧
        0x0F#8 ≠ withBit 0x0F s.cfg.bitPrimRx false) := ⟨by decide, by decide, ⟨rfl, rfl, reference_mapped⟩, by decide⟩

/-- ParentTickWithoutReception at both ends of the countdown; LinkDownFiresEveryTenthTick. -/
theorem witness_ParentTickWithoutReception : (∀ n ∈ [1, 10], let s := { listener with countdown := n }
    Ready s ∧ Quiet s ∧ 1 ≤ s.countdown ∧ s.cfg.present = true ∧ s.dev.dataReceived = false) ∧ listener.countdown = 10 := by
  refine ⟨fun n hn => ⟨⟨rfl, rfl, reference_mapped⟩, ⟨rfl, rfl⟩, ?_, rfl, rfl⟩, rfl⟩
  revert n; decide

/-- ParentTickTakesOnePayload: with two payloads waiting, at both ends of the countdown. -/
theorem witness_ParentTickTakesOnePayload : ∀ n ∈ [1, 10],
    let s := { flagged true false false (queued [] [[0xFB, 0x02], [1]] listener) with countdown := n }
    Ready s ∧ Quiet s ∧ 1 ≤ s.countdown ∧ s.cfg.present = true ∧ s.dev.dataReceived = true ∧
      s.dev.rxFifo = (0xFB :: 0x02 :: []) :: [[1]] ∧ s.initialised = true ∧ s.cached s.cfg.regConfig = some 0x0F ∧
      legalValue s.cfg s.cfg.regConfig 0x0F = true ∧ Takes s s.cfg.regConfig ∧ Takes s s.cfg.regStatus := by
  refine fun n hn => ⟨⟨rfl, rfl, reference_mapped⟩, ⟨rfl, rfl⟩, ?_, rfl, rfl, rfl, rfl, ?_,
    (by decide : legalValue listener.cfg listener.cfg.regConfig 0x0F = true), ⟨rfl, ?_⟩, ⟨rfl, ?_⟩⟩
  · revert n; decide
  · exact (by decide : listener.cached node.cfg.regConfig = some 0x0F)
  · exact (by decide : node.cfg.regConfig ∉ listener.cfg.stuck)
  · exact (by decide : node.cfg.regStatus ∉ listener.cfg.stuck)

/-- AbsentDeviceOutcomes: the three bindings of V90 to V92. -/
theorem witness_AbsentDeviceOutcomes : ∀ b ∈ [0xFF#8, 0x00#8, 0x20#8],
    let s := absent b (nodeOf (fileOf 30 b))
    Ready s ∧ s.initialised = true ∧ s.ce = .low ∧ s.cfg.present = false ∧
    s.cached s.cfg.regConfig = some s.cfg.absentByte ∧
      s.inbox = none ∧ s.dev.fault = none ∧ (2#8).toNat ≤ (buffer32 []).length := by
  refine fun b _ => ⟨⟨rfl, rfl, reference_mapped⟩, rfl, rfl, rfl, rfl, rfl, rfl, by decide⟩

/-- ReceiveStep: a matching frame offered to a listening device, with room for one more payload and with none, to one
that does not listen, and to one whose receive pipe 0 is disabled. -/
theorem witness_ReceiveStep : ∀ q ∈ [[[1#8], [2#8]], [[1#8], [2#8], [3#8]]], ∀ l ∈ [Ce.high, Ce.low],
    ∀ ep ∈ [0x03#8, 0x02#8],
    let s := { withPipes ep (queued [] q listener) with ce := l, air := [airFrame], env := [[.airOffer 0 0x01]] }
    s.seq = [] ∧ s.inbox = none ∧ s.dev.fault = none ∧ s.cfg.present = true ∧ s.env = [.airOffer 0 0x01] :: [] ∧
      s.air[0]? = some airFrame ∧ s.dev.cell s.cfg s.cfg.regConfig 0 = some (.known 0x0F) ∧
      s.dev.cell s.cfg s.cfg.regEnRxAddr 0 = some (.known ep) ∧ (ep.getLsbD s.cfg.bitErxP0 = true ↔ ep = 0x03) ∧
      s.dev.cell s.cfg s.cfg.regRfCh 0 = some (.known airFrame.chan) ∧
      s.dev.cell s.cfg s.cfg.regRfSetup 0 = some (.known airFrame.rate) ∧
      s.dev.cell s.cfg s.cfg.regRxPwP0 0 = some (.known 0x02) ∧ s.dev.cell s.cfg s.cfg.regSetupAw 0 = some (.known 0x01) ∧
      airFrame.addr.length = 5 ∧ (∀ j < 5,
      s.dev.cell s.cfg s.cfg.regRxAddrP0 j = (airFrame.addr[j]?).map RegCell.known) := by
  decide

/-- TransmitCompleteStep: a burst whose payload the FIFO still holds, and one whose payload was flushed from it. -/
theorem witness_TransmitCompleteStep : ∀ held ∈ [true, false],
    let s := { burstingWith held (queued [[0xFB, 0x02]] [] node) with env := [[.transmitComplete]] }
    s.seq = [] ∧ s.inbox = none ∧ s.dev.fault = none ∧ s.cfg.present = true ∧ s.env = [.transmitComplete] :: [] ∧
      s.dev.burst = some { frame := airFrame, held := held } := by decide

/-- TickDelivery: to an armed node; to one that is not armed, and to one that is busy. -/
theorem witness_TickDelivery :
    (let s := { listener with env := [[.tick]] };
    s.seq = [] ∧ s.inbox = none ∧ s.dev.fault = none ∧ s.env = [.tick] :: [] ∧ s.tickArmed = true) ∧
    node.tickArmed = false ∧ (polling [] listener).seq ≠ [] := by decide

/-- FieldAccessors: the whole byte and its lowest bit. -/
theorem witness_FieldAccessors : (0 ≤ 7 ∧ 7 ≤ 7) ∧ 0 ≤ 0 ∧ 0 ≤ 7 := by decide

/-- The Child with a request on its port meets the invariant, and its configuration is legal. -/
theorem presented_inv : Inv (presented (.request [0x06]) node) where
  framed := ⟨.closed, rfl, ⟨fun _ => rfl, fun _ => rfl⟩⟩
  select := fun _ => ⟨fun _ => rfl, fun _ => rfl⟩
  idle := fun _ => rfl
  waiting := fun h => absurd rfl h
  depth := Nat.zero_le _
  txFifo := ⟨Nat.zero_le _, fun _ h => nomatch h⟩
  rxFifo := ⟨Nat.zero_le _, fun _ h => nomatch h⟩
  flying := fun _ h => nomatch h
  burst := fun _ h => nomatch h
  filled := fun _ => by decide
  count := by decide
  divide := by decide
  healthy := rfl

/-- EveryStepKeepsTheInvariant, ConfigurationNeverChanges. -/
theorem witness_EveryStepKeepsTheInvariant : (presented (.request [0x06]) node).cfg.legal = true ∧
    Inv (presented (.request [0x06]) node) ∧ ∃ t, step (presented (.request [0x06]) node) = .next t :=
  ⟨by decide, presented_inv, _, rfl⟩

/-- EngineNeverFaultsTheDevice, StepRunsDecodedInstruction: accepted requests and a frame, rounds of the poll, and an
operation between two of its actions. -/
theorem witness_runs : (node.seq = [] ∧ ∀ i ∈ [Instr.initiate, .endSend, .send 2 (buffer32 []), .getMode],
      isRequest i = true ∧ refusal node i = none) ∧
    encode node.cfg.toOpcodes (.busNop []) = .frame [0xFF] ∧
    (∀ callers ∈ [[], [sendPosition], [sendPosition, tickPosition 763]], PollingStack (polling callers node).seq ∧
      (polling callers node).dev.fault = none ∧ (polling callers node).inbox = none) ∧
    (let s := act (accepted (.op .initiate) node); s.dev.fault = none ∧ s.inbox = none ∧
      ∃ p callers, s.seq = p :: callers ∧ p.polls = false) := by
  refine ⟨by decide, rfl, fun callers h => ?_, rfl, rfl, _, _, rfl, rfl⟩
  simp only [List.mem_cons, List.not_mem_nil, or_false] at h
  obtain rfl | rfl | rfl := h
  · exact ⟨⟨.inl rfl, rfl, by decide⟩, rfl, rfl⟩
  · exact ⟨⟨.inr (.inl ⟨_, _, rfl⟩), rfl, by decide⟩, rfl, rfl⟩
  · exact ⟨⟨.inr (.inr ⟨_, _, rfl⟩), rfl, by decide⟩, rfl, rfl⟩

/-- Between two actions of Initiate the line is high and the engine in Transmitting (00_scope.md R12, 43_mode_controller.md
R211); the third action ends it, and the fourth step returns. -/
theorem test_initiate_action_by_action :
    (let s := accepted (.op .initiate) node;
    (acts 0 s).ce = .low ∧ (acts 1 s).ce = .high ∧ (acts 2 s).ce = .high ∧ (acts 3 s).ce = .low ∧
      engineMode s.cfg ((acts 1 s).cached s.cfg.regConfig) (acts 1 s).ce = .transmitting ∧
      (acts 3 s).seq ≠ [] ∧ (acts 4 s).seq = [] ∧ (acts 4 s).resp = some Reply.plain) := by decide

/-- Between two actions of a frame bus-select is asserted (40_register_interface.md R121), and an operation left there goes on
by one action a step. -/
theorem test_frame_action_by_action :
    (let s := accepted (.op (.writeCommand 0xFF)) node;
    (acts 1 s).csn = .asserted ∧ (acts 2 s).csn = .asserted ∧ (acts 3 s).csn = .deasserted ∧
      step (acts 1 s) = .next (acts 2 s)) := ⟨by decide, by decide, by decide, rfl⟩

/-- ResetMeetsTheInvariant, ResetState, StatusByteBits: a legal configuration. -/
theorem witness_ResetMeetsTheInvariant : Cfg.reference.legal = true ∧ Cfg.reference.mapped = true := by decide

end Sys2Proof.Tests
end

section
/-! What a request consists of: the checks made before it, the computation it runs, and the property every operation of
the engine keeps when its frames, its line actions and its internal actions keep it. -/

namespace Sys2Proof.Machine

/-! The checks of a request, as the table of refusals has them (60_exceptions.md R298). -/

theorem firstReason_cons (b : Bool) (why : RefuseReason) (rest : List (Bool × RefuseReason)) :
    firstReason ((b, why) :: rest) = if b then some why else firstReason rest := by cases b <;> rfl

@[simp] theorem firstReason_nil : firstReason [] = none := rfl

theorem addressBad_eq (a : Byte) : addressBad a = decide (0x1D#8 < a) := rfl

theorem addressRefusal_eq (a : Byte) (s : State) :
    addressRefusal a s = if 0x1D#8 < a then some .badAddress else none := by
  simp [addressRefusal, firstReason_cons, addressBad_eq]

theorem commandRefusal_eq (d : Byte) (s : State) : commandRefusal d s =
    if d = s.cfg.opcFlushTx ∨ d = s.cfg.opcFlushRx ∨ d = s.cfg.opcNop then none else some .badCommand := by
  by_cases h : d = s.cfg.opcFlushTx ∨ d = s.cfg.opcFlushRx ∨ d = s.cfg.opcNop
  · have hb : commandBad s.cfg.toOpcodes d = false := decide_eq_false (by tauto)
    simp [commandRefusal, firstReason_cons, hb, h]
  · have hb : commandBad s.cfg.toOpcodes d = true := decide_eq_true (by tauto)
    simp [commandRefusal, firstReason_cons, hb, h]

theorem lengthBad_eq (n : Byte) : lengthBad n = decide (32#8 < n) := by
  simp [lengthBad, BitVec.lt_def, Config.fifoMax]

theorem lengthRefusal_eq (n : Byte) (s : State) :
    lengthRefusal n s = if 32#8 < n then some .badLength else none := by
  simp [lengthRefusal, firstReason_cons, lengthBad_eq]

theorem burstLengthBad_eq (n : Byte) : burstLengthBad n = decide (n ≠ 5) := by
  simp [burstLengthBad, Config.addrLen, ← BitVec.toNat_inj]

theorem burstRefusal_eq (a n : Byte) (s : State) : burstRefusal a n s =
    if 0x1D#8 < a then some .badAddress else if n ≠ 5 then some .badLength else none := by
  simp [burstRefusal, firstReason_cons, addressBad_eq, burstLengthBad_eq]

theorem cacheRefusal_eq (s : State) :
    cacheRefusal s = if s.initialised = false then some .notInitialised else none := by
  simp [cacheRefusal, firstReason_cons, State.notInitialised]

theorem startRefusal_eq (n : Byte) (s : State) : startRefusal n s =
    if s.initialised = false then some .notInitialised
    else if s.ce = .high then some .enableHigh
    else if 32#8 < n then some .badLength
    else none := by
  simp [startRefusal, firstReason_cons, State.notInitialised, State.enableHigh, lengthBad_eq]

theorem initiateRefusal_eq (s : State) :
    initiateRefusal s = if s.ce = .high then some .enableHigh else none := by
  simp [initiateRefusal, firstReason_cons, State.enableHigh]

/-! Guards. -/

/-- A check made twice is a check made once. -/
theorem guarded_guarded (why : State → Option RefuseReason) (m : Eng Reply) :
    guarded why (guarded why m) = guarded why m := by
  funext s
  unfold guarded
  cases h : why s with
  | none => simp only [refusedOr, EStateM.run, h]
  | some r => rfl

/-- What a check lets through may rely on its having passed. -/
theorem guarded_keeps {D : State → Prop} {E : Wait → State → Prop} {why : State → Option RefuseReason}
    {m : Eng Reply} (h : ∀ s, D s → why s = none → Keep D E m) : Keep D E (guarded why m) := by
  intro s hs
  rw [guarded_run]
  cases hw : why s with
  | none => exact h s hs hw s hs
  | some r => exact hs

/-! A property every operation keeps. -/

/-- `D` holds before and after every frame of an opcode the device knows, of at most 32 data bytes, and every other
action of a node with configuration `c` keeps it; a wait, a response and the sequencer do not matter to it. -/
structure EngineKeeps (c : Cfg) (D : State → Prop) : Prop where
  mapped : c.mapped = true
  cfg : ∀ s, D s → s.cfg = c
  blind : Blind D
  resp : ∀ s r, D s → D { s with resp := r }
  frame : ∀ op, decodeOpcode c.toOpcodes op ≠ none → ∃ A B, Protocol op Config.fifoMax D A B fun _ => D
  ceHigh : Keep D (fun _ => D) ceHigh
  ceLow : Keep D (fun _ => D) ceLow
  wait : ∀ us, Keep D (fun _ => D) (waitUs us)
  cached : ∀ a v s, a ≤ Config.regHi → D s → D (s.setCached a v)
  initialised : ∀ s, D s → D s.nowInitialised
  board : ∀ s, D s → D s.boardInitialised
  armed : ∀ s, D s → D s.armed
  alerted : ∀ p s, D s → D (s.alerted p)
  sampled : ∀ s, D s → D s.sampled
  tickdiv : ∀ n s, D s → D (s.withTickdiv n)
  countdown : ∀ n s, D s → D (s.withCountdown n)

namespace EngineKeeps

variable {c : Cfg} {D : State → Prop}

/-! Frames. -/

theorem readRegisterBody (h : EngineKeeps c D) {a : Byte} (ha : a ≤ Config.regHi) :
    Keep D (fun _ => D) (readRegisterBody a) := by
  obtain ⟨A, B, p⟩ := h.frame (readOpcode a) (by simp [decodeOpcode_read _ ha])
  exact readRegisterBody_keeps p (by decide)

theorem writeRegisterBody (h : EngineKeeps c D) {a : Byte} (ha : a ≤ Config.regHi) (d : Byte) :
    Keep D (fun _ => D) (writeRegisterBody a d) := by
  obtain ⟨A, B, p⟩ := h.frame (writeOpcode a) (by simp [decodeOpcode_write _ ha])
  exact writeRegisterBody_keeps d p (by decide)

theorem writeCommandBody (h : EngineKeeps c D) {b : Byte} (hb : b = c.opcFlushTx ∨ b = c.opcFlushRx ∨ b = c.opcNop) :
    Keep D (fun _ => D) (writeCommandBody b) := by
  have ho := mapped_opcodes h.mapped
  obtain ⟨A, B, p⟩ := h.frame b (by
    rcases hb with rfl | rfl | rfl <;> simp [decodeOpcode_flushTx ho, decodeOpcode_flushRx ho, decodeOpcode_nop ho])
  exact writeCommandBody_keeps p

theorem writeRegisterBurstBody (h : EngineKeeps c D) {a : Byte} (ha : a ≤ Config.regHi) {bytes : List Byte}
    (hl : bytes.length ≤ Config.fifoMax) : Keep D (fun _ => D) (writeRegisterBurstBody a bytes) := by
  obtain ⟨A, B, p⟩ := h.frame (writeOpcode a) (by simp [decodeOpcode_write _ ha])
  exact writeRegisterBurstBody_keeps p hl

theorem writeFifoBody (h : EngineKeeps c D) {n : Byte} (hn : n ≤ 32) (buf : List Byte) :
    Keep D (fun _ => D) (writeFifoBody c n buf) := by
  obtain ⟨A, B, p⟩ := h.frame c.opcWTxPayload (by simp [decodeOpcode_txPayload (mapped_opcodes h.mapped)])
  exact writeFifoBody_keeps buf p (BitVec.le_def.mp hn)

theorem readFifoBody (h : EngineKeeps c D) {n : Byte} (hn : n ≤ 32) : Keep D (fun _ => D) (readFifoBody c n) := by
  obtain ⟨A, B, p⟩ := h.frame c.opcRRxPayload (by simp [decodeOpcode_rxPayload (mapped_opcodes h.mapped)])
  exact readFifoBody_keeps p (BitVec.le_def.mp hn)

/-! Operations. -/

theorem status_le (h : EngineKeeps c D) : c.regStatus ≤ Config.regHi := named_le h.mapped (by simp)

theorem config_le (h : EngineKeeps c D) : c.regConfig ≤ Config.regHi := named_le h.mapped (by simp)

theorem writeValidatedBody (h : EngineKeeps c D) {a : Byte} (ha : a ≤ Config.regHi) (d : Byte) :
    Keep D (fun _ => D) (writeValidatedBody a d) :=
  writeValidatedBody_keeps h.blind (h.writeRegisterBody ha d) (h.readRegisterBody ha) fun s hs => h.cached a d s ha hs

theorem initBody (h : EngineKeeps c D) : Keep D (fun _ => D) (initBody c) := by
  have hb : ∀ a ∈ baselineAddresses, a ≤ Config.regHi := by decide
  have hc : ∀ a ∈ configuredRegisters c, a ≤ Config.regHi := fun a ha => named_le h.mapped (configured_named ha)
  exact initBody_keeps h.mapped h.blind (fun a ha => h.readRegisterBody (hb a ha))
    (fun a ha s hs => h.cached a _ s (hb a ha) hs) (fun a ha d => h.writeRegisterBody (hc a ha) d)
    (fun a ha d s hs => h.cached a d s (hc a ha) hs)
    (fun bytes hl => h.writeRegisterBurstBody (named_le h.mapped (by simp)) (by rw [hl]; decide)) h.initialised h.wait

theorem flushTxCommand (h : EngineKeeps c D) : Keep D (fun _ => D) (Machine.writeCommandBody c.opcFlushTx) :=
  h.writeCommandBody (.inl rfl)

theorem flushRxCommand (h : EngineKeeps c D) : Keep D (fun _ => D) (Machine.writeCommandBody c.opcFlushRx) :=
  h.writeCommandBody (.inr (.inl rfl))

theorem nopCommand (h : EngineKeeps c D) : Keep D (fun _ => D) (Machine.writeCommandBody c.opcNop) :=
  h.writeCommandBody (.inr (.inr rfl))

theorem clearFlagsBody (h : EngineKeeps c D) (m : Byte) : Keep D (fun _ => D) (clearFlagsBody c m) :=
  clearFlagsBody_keeps h.blind fun d => h.writeRegisterBody h.status_le d

theorem setModeBitBody (h : EngineKeeps c D) (m : Byte) : Keep D (fun _ => D) (setModeBitBody c m) :=
  setModeBitBody_keeps h.blind (fun d => h.writeRegisterBody h.config_le d) (h.readRegisterBody h.config_le)
    fun d s hs => h.cached _ d s h.config_le hs

theorem startListeningBody (h : EngineKeeps c D) : Keep D (fun _ => D) (startListeningBody c) :=
  startListeningBody_keeps h.blind (h.clearFlagsBody _) (h.setModeBitBody _) h.ceHigh

theorem stopListeningBody (h : EngineKeeps c D) : Keep D (fun _ => D) (stopListeningBody c) :=
  stopListeningBody_keeps h.blind h.ceLow h.flushRxCommand

theorem startBody (h : EngineKeeps c D) {n : Byte} (hn : n ≤ 32) (buf : List Byte) :
    Keep D (fun _ => D) (startBody c n buf) :=
  startBody_keeps h.blind (h.clearFlagsBody _) (h.setModeBitBody _) h.flushTxCommand (h.writeFifoBody hn buf)

theorem initiateBody (h : EngineKeeps c D) : Keep D (fun _ => D) initiateBody :=
  initiateBody_keeps h.ceHigh (h.wait _) h.ceLow

theorem endBody (h : EngineKeeps c D) : Keep D (fun _ => D) (endBody c) :=
  endBody_keeps h.blind h.nopCommand (h.clearFlagsBody _) (fun _ hs => hs) h.blind

theorem sendBody (h : EngineKeeps c D) {n : Byte} (hn : n ≤ 32) (buf : List Byte) :
    Keep D (fun _ => D) (sendBody c n buf) :=
  sendBody_keeps h.blind (h.startBody hn buf) h.initiateBody h.endBody

theorem pollReceivedBody (h : EngineKeeps c D) : Keep D (fun _ => D) (pollReceivedBody c) :=
  pollReceivedBody_keeps h.blind h.nopCommand

theorem bootBody (h : EngineKeeps c D) : Keep D (fun _ => D) (bootBody c) :=
  bootBody_keeps h.blind h.board h.initBody h.startListeningBody h.armed

theorem childTickBody (h : EngineKeeps c D) : Keep D (fun _ => D) (childTickBody c) :=
  childTickBody_keeps h.blind h.tickdiv h.sampled (fun buf => h.sendBody (by decide) buf) h.alerted

theorem parentTickBody (h : EngineKeeps c D) : Keep D (fun _ => D) (parentTickBody c) :=
  parentTickBody_keeps h.blind (countTick_keeps h.blind h.countdown h.alerted) h.pollReceivedBody
    (takePayload_keeps h.blind (h.readFifoBody (by decide)) h.stopListeningBody h.startListeningBody h.countdown h.alerted)

end EngineKeeps

/-- What an operation keeps it keeps when its result is put in a response. -/
theorem reply_keeps {α : Type} {D : State → Prop} {E : Wait → State → Prop} {m : Eng α} {f : α → Reply}
    (h : Keep D E m) : Keep D E (m >>= fun a => pure (f a)) := Keep.bind h fun _ => Keep.pure _

/-! Requests. -/

/-- What the service of request `i` in `s` consists of: after the check `why` the computation `m`. The check is the row of
the table of refusals, `m` is a run of single actions, and what every operation keeps `m` keeps. -/
structure ServedBy (i : Instr) (s : State) (why : State → Option RefuseReason) (m : Eng Reply) : Prop where
  runs : exec i s = serve (.op i) (guarded why m) s
  check : why (accepted (.op i) s) = refusal s i
  follows : Follows s.cfg (.op i) m id
  keeps : ∀ D, EngineKeeps s.cfg D → Keep D (fun _ => D) (guarded why m)

/-- An address the check lets through. -/
theorem le_of_addressRefusal {a : Byte} {s : State} (h : addressRefusal a s = none) : a ≤ Config.regHi := by
  rw [addressRefusal_eq] at h
  split_ifs at h with ha
  exact BitVec.not_lt.mp ha

/-- A length the check lets through. -/
theorem le_of_lengthRefusal {n : Byte} {s : State} (h : lengthRefusal n s = none) : n ≤ 32 := by
  rw [lengthRefusal_eq] at h
  split_ifs at h with hn
  exact BitVec.not_lt.mp hn

theorem le_of_startRefusal {n : Byte} {s : State} (h : startRefusal n s = none) : n ≤ 32 := by
  rw [startRefusal_eq] at h
  split_ifs at h with _ _ hn
  exact BitVec.not_lt.mp hn

/-- A burst the check lets through: an address in range, five bytes at most. -/
theorem le_of_burstRefusal {a n : Byte} {s : State} (h : burstRefusal a n s = none) : a ≤ Config.regHi ∧ n = 5 := by
  rw [burstRefusal_eq] at h
  split_ifs at h with ha hn
  exact ⟨BitVec.not_lt.mp ha, not_not.mp hn⟩

/-- A command the check lets through. -/
theorem command_of_commandRefusal {d : Byte} {s : State} (h : commandRefusal d s = none) :
    d = s.cfg.opcFlushTx ∨ d = s.cfg.opcFlushRx ∨ d = s.cfg.opcNop := by
  rw [commandRefusal_eq] at h
  split_ifs at h with hd
  exact hd

/-- Every request is served so; the routines that make their check again when the host calls them make it once. -/
theorem request_servedBy {i : Instr} (h : isRequest i = true) (s : State) : ∃ why m, ServedBy i s why m := by
  cases i with
  | rRegister | wRegister | rRxPayload | wTxPayload | busFlushTx | busFlushRx | busNop => cases h
  | readRegister a => exact ⟨_, _, rfl, addressRefusal_eq a _, (readRegister_follows _ a).map, fun D k =>
      guarded_keeps fun _ _ hw => reply_keeps (k.readRegisterBody (le_of_addressRefusal hw))⟩
  | writeRegister a d => exact ⟨_, _, rfl, addressRefusal_eq a _, (writeRegister_follows _ a d).map, fun D k =>
      guarded_keeps fun _ _ hw => reply_keeps (k.writeRegisterBody (le_of_addressRefusal hw) d)⟩
  | writeCommand d => exact ⟨_, _, rfl, commandRefusal_eq d _, (writeCommand_follows _ d).map, fun D k =>
      guarded_keeps fun t ht hw => reply_keeps (k.writeCommandBody (k.cfg t ht ▸ command_of_commandRefusal hw))⟩
  | writeRegisterBurst a n buf => exact ⟨_, _, rfl, burstRefusal_eq a n _,
      (writeRegisterBurst_follows _ a n buf _ rfl).map, fun D k => guarded_keeps fun _ _ hw => by
        obtain ⟨ha, rfl⟩ := le_of_burstRefusal hw
        exact reply_keeps (k.writeRegisterBurstBody ha ((payload_length_le 5 buf).trans (by decide)))⟩
  | writeValidated a d => exact ⟨_, _, rfl, addressRefusal_eq a _, (writeValidated_follows _ a d).map, fun D k =>
      guarded_keeps fun _ _ hw => reply_keeps (k.writeValidatedBody (le_of_addressRefusal hw) d)⟩
  | init => exact ⟨accepts, _, rfl, rfl, (init_follows _).map, fun D k => Keep.guarded (reply_keeps k.initBody)⟩
  | writeFifo n buf => exact ⟨_, _, rfl, lengthRefusal_eq n _, (writeFifo_follows _ n buf).map, fun D k =>
      guarded_keeps fun _ _ hw => reply_keeps (k.writeFifoBody (le_of_lengthRefusal hw) buf)⟩
  | readFifo n => exact ⟨_, _, rfl, lengthRefusal_eq n _, (readFifo_follows _ n).map, fun D k =>
      guarded_keeps fun _ _ hw => reply_keeps (k.readFifoBody (le_of_lengthRefusal hw))⟩
  | flushTx => exact ⟨accepts, _, rfl, rfl, (flushTx_follows _).map, fun D k =>
      Keep.guarded (reply_keeps (writeCommand_keeps k.blind k.flushTxCommand))⟩
  | flushRx => exact ⟨accepts, _, rfl, rfl, (flushRx_follows _).map, fun D k =>
      Keep.guarded (reply_keeps (writeCommand_keeps k.blind k.flushRxCommand))⟩
  | clearFlags d => exact ⟨accepts, _, rfl, rfl, (clearFlags_follows _ d).map, fun D k =>
      Keep.guarded (reply_keeps (k.clearFlagsBody d))⟩
  | send n buf => exact ⟨_, _, by rw [guarded_guarded]; rfl, startRefusal_eq n _, send_follows _ n buf, fun D k => by
      rw [guarded_guarded]; exact guarded_keeps fun _ _ hw => k.sendBody (le_of_startRefusal hw) buf⟩
  | start n buf => exact ⟨_, _, rfl, startRefusal_eq n _, (start_follows _ n buf).map, fun D k =>
      guarded_keeps fun _ _ hw => reply_keeps (k.startBody (le_of_startRefusal hw) buf)⟩
  | initiate => exact ⟨_, _, rfl, initiateRefusal_eq _, (initiate_follows _).map, fun D k =>
      Keep.guarded (reply_keeps k.initiateBody)⟩
  | endSend => exact ⟨accepts, _, rfl, rfl, (endSend_follows _).map, fun D k => Keep.guarded (reply_keeps k.endBody)⟩
  | setModeBit d => exact ⟨_, _, rfl, cacheRefusal_eq _, (setModeBit_follows _ d).map, fun D k =>
      Keep.guarded (reply_keeps (k.setModeBitBody d))⟩
  | startListening => exact ⟨_, _, by rw [guarded_guarded]; rfl, cacheRefusal_eq _, startListening_follows _,
      fun D k => by rw [guarded_guarded]; exact Keep.guarded k.startListeningBody⟩
  | stopListening => exact ⟨accepts, _, rfl, rfl, (stopListening_follows _).map, fun D k =>
      Keep.guarded (reply_keeps k.stopListeningBody)⟩
  | getMode => exact ⟨_, _, rfl, cacheRefusal_eq _, getMode_follows _, fun D k =>
      Keep.guarded (Keep.bind Keep.get fun _ => Keep.pure _)⟩
  | pollReceived => exact ⟨accepts, _, rfl, rfl, (pollReceived_follows _).map, fun D k =>
      Keep.guarded (reply_keeps k.pollReceivedBody)⟩
  | boot => exact ⟨accepts, _, rfl, rfl, (boot_follows _).map, fun D k => Keep.guarded (reply_keeps k.bootBody)⟩
  | childTick => exact ⟨accepts, _, rfl, rfl, (childTick_follows _).map, fun D k =>
      Keep.guarded (reply_keeps k.childTickBody)⟩
  | parentTick => exact ⟨accepts, _, rfl, rfl, (parentTick_follows _).map, fun D k =>
      Keep.guarded (reply_keeps k.parentTickBody)⟩

/-- What every operation keeps a request keeps, whether it is served or refused. -/
theorem EngineKeeps.exec {D : State → Prop} {i : Instr} {s t : State} (k : EngineKeeps s.cfg D) (hi : isRequest i = true)
    (hs : D s) (h : exec i s = .next t) : D t := by
  obtain ⟨why, m, hr⟩ := request_servedBy hi s
  exact serve_keeps k.blind (fun _ _ h => h) k.resp (hr.keeps D k) hs (hr.runs ▸ h)

/-- A request whose check has passed is a run of single actions (00_scope.md R12). -/
theorem exec_request_acts {i : Instr} (hi : isRequest i = true) {s : State} (hs : s.seq = []) (hw : refusal s i = none) :
    ∃ n, exec i s = .next (acts n (accepted (.op i) s)) ∧ (∀ m < n, (acts m (accepted (.op i) s)).seq ≠ []) ∧
      ((acts n (accepted (.op i) s)).seq = [] ∨ ∃ w, Halted w (acts n (accepted (.op i) s))) := by
  obtain ⟨why, m, hr⟩ := request_servedBy hi s
  rw [hr.runs]
  exact serve_guarded_follows hr.follows hs (hr.check.trans hw)

end Sys2Proof.Machine
end

section
/-! The device fault (45_device_interpreter.md R259): no frame of an opcode the device knows, of at most 32 data bytes, makes
one appear, and nothing makes one go. -/

namespace Sys2Proof.Machine

/-! The device. -/

/-- An opcode the device knows is no fault. -/
theorem Device.openFrame_fault {c : Cfg} {op : Byte} (h : decodeOpcode c.toOpcodes op ≠ none) (d : Device) :
    (d.openFrame c op).fault = d.fault := by
  unfold Device.openFrame
  split
  case h_8 hn => exact absurd hn h
  all_goals rfl

/-- The place of a frame at which the device holds at most `k` payload bytes. -/
def DevFrame.Holds (k : Nat) (f : DevFrame) : Prop := f ≠ .awaitOpcode ∧ ∀ l, f = .txWrite l → l.length ≤ k

/-- The opcode exchange opens a frame with no payload byte. -/
theorem Device.openFrame_holds (c : Cfg) (op : Byte) (d : Device) : (d.openFrame c op).frame.Holds 0 := by
  unfold Device.openFrame
  split
  case h_4 => exact ⟨nofun, fun l h => by cases h; exact Nat.le_refl 0⟩
  all_goals exact ⟨nofun, nofun⟩

/-- A data exchange adds at most one payload byte. -/
theorem Device.exchange_holds {c : Cfg} {draw out : Byte} {k : Nat} {d : Device} (h : d.frame.Holds k) :
    (d.exchange c draw out).2.frame.Holds (k + 1) := by
  rw [Device.exchange_frame]
  cases hf : d.frame with
  | awaitOpcode => exact absurd hf h.1
  | txWrite l => exact ⟨nofun, fun l' hl => by cases hl; simpa using h.2 l hf⟩
  | none | regRead | regWrite | rxRead | done => exact ⟨nofun, nofun⟩

/-- A frame that ends with at most 32 payload bytes is no fault. -/
theorem Device.deselect_fault {c : Cfg} {d : Device} (h : d.frame.Holds Config.fifoMax) :
    (d.deselect c).fault = d.fault := by
  show (d.commit c).fault = d.fault
  unfold Device.commit
  split
  case h_1 => split <;> rfl
  case h_2 l hf =>
    rw [if_pos (h.2 l hf)]
    unfold Device.appendPayload
    split_ifs <;> rfl
  case h_3 => rfl

theorem Device.trigger_fault (c : Cfg) (fresh : Nat → Byte) (d : Device) : (d.trigger c fresh).fault = d.fault := by
  rcases trigger_cases c fresh d with h | ⟨_, _, _, _, _, _, h⟩ <;> rw [h]

/-- Once in fault the device stays so in every exchange. -/
theorem Device.exchange_faulted {c : Cfg} {draw out : Byte} {d : Device} (h : d.fault ≠ none) :
    (d.exchange c draw out).2.fault ≠ none := by
  by_cases hf : d.frame = .awaitOpcode
  · rw [Device.exchange_open c draw out d hf]
    by_cases ho : decodeOpcode c.toOpcodes out = none
    · simp [Device.openFrame, ho]
    · rwa [Device.openFrame_fault ho]
  · rwa [(Device.exchange_data c draw out d hf).2.2.2]

/-- And at the end of every frame. -/
theorem Device.deselect_faulted {c : Cfg} {d : Device} (h : d.fault ≠ none) : (d.deselect c).fault ≠ none := by
  show (d.commit c).fault ≠ none
  unfold Device.commit
  split
  case h_1 => split_ifs <;> exact h
  case h_2 l _ =>
    unfold Device.appendPayload
    split_ifs
    · exact h
    · exact h
    · exact h
    · exact Option.some_ne_none _
  case h_3 => exact h

/-! The node. -/

/-- An exchange is the device's when there is one. -/
theorem exchanged_dev (shown : Bool) (out : Byte) (s : State) : (s.exchanged shown out).dev =
    if s.cfg.present then (s.dev.exchange s.cfg s.draw out).2 else s.dev := by
  show (s.answer out).2 = _
  unfold State.answer
  split <;> rfl

/-- A node with configuration `c` whose device's fault record is `f`. -/
def FaultIs (c : Cfg) (f : Option DeviceFault) (s : State) : Prop := s.cfg = c ∧ s.dev.fault = f

/-- And its device, if it is there, is at a place of a frame that meets `F`. -/
def FaultIsIn (c : Cfg) (f : Option DeviceFault) (F : DevFrame → Prop) (s : State) : Prop :=
  FaultIs c f s ∧ (c.present = true → F s.dev.frame)

/-- Every frame of an opcode the device knows, of at most 32 data bytes, leaves the fault record as it is. -/
theorem faultIs_protocol {c : Cfg} (f : Option DeviceFault) {op : Byte} (h : decodeOpcode c.toOpcodes op ≠ none) :
    Protocol op Config.fifoMax (FaultIs c f) (FaultIsIn c f (· = .awaitOpcode)) (fun k => FaultIsIn c f (DevFrame.Holds k))
      fun _ => FaultIs c f where
  opened := by
    rintro s ⟨rfl, rfl⟩
    refine ⟨⟨by simp, ?_⟩, fun hp => ?_⟩
    · by_cases hp : s.cfg.present <;> simp [State.onDevice, hp]
    · simp [State.onDevice, hp]
  opcode := by
    rintro s shown ⟨⟨rfl, rfl⟩, hf⟩
    by_cases hp : s.cfg.present = true
    · have he : ((gap s).exchanged shown op).dev = (gap s).dev.openFrame s.cfg op := by
        rw [exchanged_dev, gap_cfg, if_pos hp, Device.exchange_open _ _ _ _ (by simpa using hf hp)]
      exact ⟨⟨by simp, by rw [he, Device.openFrame_fault h, gap_fault]⟩,
        fun _ => by rw [he]; exact Device.openFrame_holds ..⟩
    · exact ⟨⟨by simp, by rw [exchanged_dev, gap_cfg, if_neg hp, gap_fault]⟩, fun h => absurd h hp⟩
  opcodeStuck := by rintro s ⟨⟨rfl, rfl⟩, _⟩ _; exact ⟨gap_cfg s, gap_fault s⟩
  data := by
    rintro s shown out k _ ⟨⟨rfl, rfl⟩, hf⟩
    by_cases hp : s.cfg.present = true
    · have hg : (gap s).dev.frame.Holds k := by rw [gap_frame]; exact hf hp
      have he : ((gap s).exchanged shown out).dev = ((gap s).dev.exchange s.cfg (gap s).draw out).2 := by
        rw [exchanged_dev, gap_cfg, if_pos hp]
      exact ⟨⟨by simp, by rw [he, (Device.exchange_data _ _ _ _ hg.1).2.2.2, gap_fault]⟩,
        fun _ => by rw [he]; exact Device.exchange_holds hg⟩
    · exact ⟨⟨by simp, by rw [exchanged_dev, gap_cfg, if_neg hp, gap_fault]⟩, fun h => absurd h hp⟩
  dataStuck := by rintro s out k _ ⟨⟨rfl, rfl⟩, _⟩ _; exact ⟨gap_cfg s, gap_fault s⟩
  noted := fun _ _ _ h => h
  closed := by
    rintro s k hk ⟨⟨rfl, rfl⟩, hf⟩
    refine ⟨gap_cfg s, ?_⟩
    show ((gap s).onDevice (Device.deselect (gap s).cfg)).fault = _
    by_cases hp : s.cfg.present = true
    · have hg : (gap s).dev.frame.Holds Config.fifoMax := by
        rw [gap_frame]; exact ⟨(hf hp).1, fun l hl => ((hf hp).2 l hl).trans hk⟩
      rw [onDevice_present _ (by simpa using hp), Device.deselect_fault hg, gap_fault]
    · rw [onDevice_absent _ (by simpa using hp), gap_fault]

/-- Raising the enable line is no fault. -/
theorem raised_fault (s : State) : s.raised.dev.fault = s.dev.fault := by
  unfold State.raised State.raisedFrom State.onDevice
  repeat' split
  all_goals simp only [Device.trigger_fault]

/-- Every operation of the engine leaves the device's fault record as it is: "The engine of this spec cannot cause a device
fault" (45_device_interpreter.md R259). -/
theorem engineKeeps_faultIs {c : Cfg} (hm : c.mapped = true) (f : Option DeviceFault) : EngineKeeps c (FaultIs c f) where
  mapped := hm
  cfg := fun _ h => h.1
  blind := fun _ _ h => h
  resp := fun _ _ h => h
  frame := fun _ h => ⟨_, _, faultIs_protocol f h⟩
  ceHigh := fun s h =>
    ⟨(State.raised_cfg _).trans ((gap_cfg s).trans h.1), (raised_fault _).trans ((gap_fault s).trans h.2)⟩
  ceLow := fun s h => ⟨(gap_cfg s).trans h.1, (gap_fault s).trans h.2⟩
  wait := fun _ s h => ⟨(gap_cfg s).trans h.1, (gap_fault s).trans h.2⟩
  cached := fun _ _ _ _ h => h
  initialised := fun _ h => h
  board := fun _ h => h
  armed := fun _ h => h
  alerted := fun _ _ h => h
  sampled := fun _ h => h
  tickdiv := fun _ _ h => h
  countdown := fun _ _ h => h

/-! Raw frames. -/

/-- The device is in fault. -/
def Faulted (s : State) : Prop := s.dev.fault ≠ none

/-- A device in fault stays so through every frame, whatever its bytes. -/
theorem faulted_protocol (op : Byte) (limit : Nat) :
    Protocol op limit Faulted Faulted (fun _ => Faulted) fun _ => Faulted := by
  have hgap : ∀ s, Faulted s → Faulted (gap s) := fun s h => (gap_fault s).trans_ne h
  have hx : ∀ s shown out, Faulted s → Faulted ((gap s).exchanged shown out) := fun s shown out h => by
    rw [Faulted, exchanged_dev]
    split
    · exact Device.exchange_faulted (hgap s h)
    · exact hgap s h
  exact
    { opened := fun s h => by
        show ((gap s).onDevice Device.select).fault ≠ none
        unfold State.onDevice
        split <;> exact hgap s h
      opcode := fun s shown h => hx s shown op h
      opcodeStuck := fun s h _ => hgap s h
      data := fun s shown out _ _ h => hx s shown out h
      dataStuck := fun s _ _ _ h _ => hgap s h
      noted := fun _ _ _ h => h
      closed := fun s _ _ h => by
        show ((gap s).onDevice (Device.deselect (gap s).cfg)).fault ≠ none
        unfold State.onDevice
        split
        · exact Device.deselect_faulted (hgap s h)
        · exact hgap s h }

/-- The outcome of a raw frame is a next state only if the device is in no fault after it. -/
theorem runFrame_next {bytes : List Byte} {s t : State} (h : runFrame bytes s = .next t) :
    serve (.frame bytes) (frameBody bytes) s = .next t ∧ t.dev.fault = none := by
  obtain ⟨u, hu⟩ := serve_next (.frame bytes) (frameBody bytes) s
  rw [runFrame, hu, stopOnDeviceFault] at h
  cases hf : u.dev.fault with
  | none => rw [hf] at h; cases h; exact ⟨hu, hf⟩
  | some why => rw [hf] at h; cases h

/-- A raw frame that answers a next state found the device in no fault, and left it so. -/
theorem runFrame_fault {op : Byte} {data : List Byte} {s t : State} (h : runFrame (op :: data) s = .next t) :
    t.dev.fault = s.dev.fault := by
  obtain ⟨hu, ht⟩ := runFrame_next h
  rw [ht]
  by_contra hs
  exact serve_keeps (D := Faulted) (fun _ _ h => h) (fun _ _ h => h) (fun _ _ h => h)
    (frameBody_keeps (faulted_protocol op data.length) (Nat.le_refl _)) (Ne.symm hs) hu ht

/-- An instruction whose encoding is a frame is run as that frame (45_device_interpreter.md R252). -/
theorem exec_frame {i : Instr} {bytes : List Byte} {s : State} (h : encode s.cfg.toOpcodes i = .frame bytes) :
    exec i s = runFrame bytes s := by
  cases i <;> cases h <;> rfl

/-- A bus instruction is encoded as a frame with an opcode, a request is not. -/
theorem encode_frame_of_not_request (o : Opcodes) {i : Instr} (h : isRequest i = false) :
    ∃ op data, encode o i = .frame (op :: data) := by
  cases i with
  | rRegister | wRegister | rRxPayload | wTxPayload | busFlushTx | busFlushRx | busNop => exact ⟨_, _, rfl⟩
  | _ => cases h

/-- A raw frame on an idle engine is a run of single actions, stopped by a device fault (00_scope.md R12). -/
theorem runFrame_acts {bytes : List Byte} {s : State} (hs : s.seq = []) :
    ∃ n, runFrame bytes s =
        faultOr (acts n (accepted (.frame bytes) s)) (acts n (accepted (.frame bytes) s)).dev.fault ∧
      (∀ m < n, (acts m (accepted (.frame bytes) s)).seq ≠ []) ∧
      ((acts n (accepted (.frame bytes) s)).seq = [] ∨ ∃ w, Halted w (acts n (accepted (.frame bytes) s))) := by
  obtain ⟨n, hn, hrest⟩ := serve_follows (rawFrame_follows s.cfg bytes) hs
  exact ⟨n, by rw [runFrame, hn, stopOnDeviceFault], hrest⟩

end Sys2Proof.Machine

/-! The statement of 00_scope.md. -/

namespace Sys2Proof

open Sys2Proof.Machine

/-- No instruction that answers a next state makes a device fault appear or go (45_device_interpreter.md R259). -/
theorem exec_fault {i : Instr} {s t : State} (hm : s.cfg.mapped = true) (h : exec i s = .next t) :
    t.dev.fault = s.dev.fault := by
  cases hi : isRequest i with
  | true => exact ((engineKeeps_faultIs hm s.dev.fault).exec hi ⟨rfl, rfl⟩ h).2
  | false =>
    obtain ⟨op, data, he⟩ := encode_frame_of_not_request s.cfg.toOpcodes hi
    exact runFrame_fault ((exec_frame he).symm.trans h)

/-- A request answers a next state (00_scope.md R13). -/
theorem exec_request_next {i : Instr} (hi : isRequest i = true) (s : State) : ∃ t, exec i s = .next t := by
  obtain ⟨why, m, hr⟩ := request_servedBy hi s
  rw [hr.runs]
  exact serve_next _ _ s

/-- Settles O14: every request is served by a computation that is a run of single actions, and every frame the engine emits
is one the device knows. -/
theorem engineNeverFaultsTheDevice : Obligations.EngineNeverFaultsTheDevice := by
  refine ⟨fun i s hi => exec_request_next hi s, fun i s t hm h => exec_fault hm h,
    fun i s hi hs hw => exec_request_acts hi hs hw, fun i bytes s he hs => ?_, fun s hq hf hb => ?_⟩
  · rw [exec_frame he]
    exact runFrame_acts hs
  · obtain ⟨n, hn, hbusy⟩ := resume_follows hq
    exact ⟨n, by rw [step, hf, hb, serveInbox, hn], hbusy⟩

end Sys2Proof
end

section
/-! Reset (10_state.md R44, R47, R48): what the statement lists, and the invariant. -/

namespace Sys2Proof

open Sys2Proof.Machine

/-- At power-on the power-up bit of the configuration register is 0 (10_state.md R44). -/
theorem powerOn_poweredDown {c : Cfg} (hm : c.mapped = true) (b : PowerOnBytes) :
    ∃ v, (Device.powerOn c b).cell c c.regConfig 0 = some (.known v) ∧ v.getLsbD c.bitPwrUp = false := by
  refine ⟨withBit ((fileGet b.regs c.regConfig.toNat).getD 0) c.bitPwrUp false,
    fileGet_set_eq _ _ (address_lt (named_le hm regConfig_named)), ?_⟩
  by_cases hi : c.bitPwrUp < 8
  · rw [withBit_bit _ _ _ _ hi, if_pos rfl]
  · exact BitVec.getLsbD_of_ge _ _ (by omega)

/-- Settles O52: every field by the definition of reset but the cache, a file of unwritten entries, and the power-up bit. -/
theorem resetState : Obligations.ResetState := fun c b =>
  ⟨rfl, fun a => by simp only [State.cached, State.resetWith, fileGet_of]; split <;> rfl,
    rfl, rfl, rfl, rfl, rfl, rfl, rfl, rfl, rfl, rfl, rfl, rfl, rfl, rfl, rfl, rfl, rfl, fun hm => powerOn_poweredDown hm b⟩

/-- An empty FIFO is within every depth. -/
theorem fifoOk_nil (depth : Nat) : FifoOk depth [] := ⟨Nat.zero_le _, nofun⟩

theorem legal_childDiv {c : Cfg} (h : c.legal = true) : 1 ≤ c.childDiv := by
  simp only [Cfg.legal, Bool.and_eq_true, decide_eq_true_eq] at h
  exact h.2

/-- The invariant holds after reset, whatever the power-on content (40_register_interface.md R121). -/
theorem resetWith_inv {c : Cfg} (h : c.legal = true) (b : PowerOnBytes) : Inv (State.resetWith c b) where
  framed := ⟨.closed, rfl, iff_of_true rfl rfl⟩
  select := fun _ => iff_of_true rfl rfl
  idle := fun _ => rfl
  waiting := fun hs => absurd rfl hs
  depth := Nat.zero_le _
  txFifo := fifoOk_nil _
  rxFifo := fifoOk_nil _
  flying := nofun
  burst := nofun
  filled := nofun
  count := ⟨(by decide : 1 ≤ Config.linkMax), Nat.le_refl Config.linkMax⟩
  divide := legal_childDiv h
  healthy := rfl

/-- Settles O53: every configuration the spec allows, and the one `State.reset` binds is allowed. -/
theorem resetMeetsTheInvariant : Obligations.ResetMeetsTheInvariant :=
  ⟨fun _ b h => resetWith_inv h b, resetWith_inv (by decide) _⟩

end Sys2Proof
end

section
/-! What an instruction can do: the actions it may perform, listed for every instruction, and the one theorem every frame of
the machine is read from: what each action on an instruction's list keeps, the instruction keeps. -/

namespace Sys2Proof.Machine

/-- A kind of action an operation is made of (00_scope.md R12): a whole frame with the opcode given, an action of the enable
line, a wait, or one kind of access to the cache, the host's state and the collaborators. -/
inductive Effect
  | frame (op : Byte)
  | ceHigh
  | ceLow
  | wait
  | cache (a : Byte)
  | initialise
  | board
  | arm
  | alert (p : AlertPattern)
  | sample
  | tickdiv
  | countdown

/-- Actions of this kind keep `D`, whatever their operands; a frame that hangs in an exchange keeps it too. -/
def Effect.Keeps (D : State → Prop) : Effect → Prop
  | .frame op => ∀ limit, ∃ A B, Protocol op limit D A B fun _ => D
  | .ceHigh => Keep D (fun _ => D) Machine.ceHigh
  | .ceLow => Keep D (fun _ => D) Machine.ceLow
  | .wait => ∀ us, Keep D (fun _ => D) (waitUs us)
  | .cache a => ∀ v s, D s → D (s.setCached a v)
  | .initialise => ∀ s, D s → D s.nowInitialised
  | .board => ∀ s, D s → D s.boardInitialised
  | .arm => ∀ s, D s → D s.armed
  | .alert p => ∀ s, D s → D (s.alerted p)
  | .sample => ∀ s, D s → D s.sampled
  | .tickdiv => ∀ n s, D s → D (s.withTickdiv n)
  | .countdown => ∀ n s, D s → D (s.withCountdown n)

/-! The lists. -/

/-- WriteValidated (41_transceiver_config.md R156). -/
def validatedEffects (a : Byte) : List Effect := [.frame (writeOpcode a), .frame (readOpcode a), .cache a]

/-- Init (R159 to R161): the baseline read, the validated writes, the transmit address among them. -/
def initEffects (c : Cfg) : List Effect :=
  baselineAddresses.flatMap (fun a => [.frame (readOpcode a), .cache a])
    ++ (configuredRegisters c).flatMap validatedEffects ++ [.wait, .initialise]

/-- ClearFlags (42_packet_io.md R186). -/
def clearEffects (c : Cfg) : List Effect := [.frame (writeOpcode c.regStatus)]

/-- StartListening (43_mode_controller.md R214). -/
def listenEffects (c : Cfg) : List Effect := clearEffects c ++ validatedEffects c.regConfig ++ [.ceHigh]

/-- StopListening (R215). -/
def stopEffects (c : Cfg) : List Effect := [.ceLow, .frame c.opcFlushRx]

/-- Start (42_packet_io.md R190). -/
def startEffects (c : Cfg) : List Effect :=
  clearEffects c ++ validatedEffects c.regConfig ++ [.frame c.opcFlushTx, .frame c.opcWTxPayload]

/-- Initiate (R192). -/
def initiateEffects : List Effect := [.ceHigh, .wait, .ceLow]

/-- End (R193). -/
def endEffects (c : Cfg) : List Effect := .frame c.opcNop :: clearEffects c

/-- Send (R195). -/
def sendEffects (c : Cfg) : List Effect := startEffects c ++ initiateEffects ++ endEffects c

/-- What an instruction may perform under a configuration; nothing when an operand is one it is refused for (30_encoding.md
R102). -/
def effects (c : Cfg) : Instr → List Effect
  | .rRegister addr _ => [.frame (readOpcode (addr.setWidth 8))]
  | .wRegister addr _ => [.frame (writeOpcode (addr.setWidth 8))]
  | .rRxPayload _ => [.frame c.opcRRxPayload]
  | .wTxPayload _ => [.frame c.opcWTxPayload]
  | .busFlushTx _ => [.frame c.opcFlushTx]
  | .busFlushRx _ => [.frame c.opcFlushRx]
  | .busNop _ => [.frame c.opcNop]
  | .readRegister a => if a ≤ Config.regHi then [.frame (readOpcode a)] else []
  | .writeRegister a _ => if a ≤ Config.regHi then [.frame (writeOpcode a)] else []
  | .writeCommand d => if d = c.opcFlushTx ∨ d = c.opcFlushRx ∨ d = c.opcNop then [.frame d] else []
  | .writeRegisterBurst a _ _ => if a ≤ Config.regHi then [.frame (writeOpcode a)] else []
  | .writeValidated a _ => if a ≤ Config.regHi then validatedEffects a else []
  | .init => initEffects c
  | .writeFifo _ _ => [.frame c.opcWTxPayload]
  | .readFifo _ => [.frame c.opcRRxPayload]
  | .flushTx => [.frame c.opcFlushTx]
  | .flushRx => [.frame c.opcFlushRx]
  | .clearFlags _ => clearEffects c
  | .send _ _ => sendEffects c
  | .start _ _ => startEffects c
  | .initiate => initiateEffects
  | .endSend => endEffects c
  | .setModeBit _ => validatedEffects c.regConfig
  | .startListening => listenEffects c
  | .stopListening => stopEffects c
  | .getMode => []
  | .pollReceived => [.frame c.opcNop]
  | .boot => [.board, .arm] ++ initEffects c ++ listenEffects c
  | .childTick => [.tickdiv, .sample, .alert .overThreshold] ++ sendEffects c
  | .parentTick =>
    [.countdown, .alert .linkDown, .alert .overThreshold, .frame c.opcNop, .frame c.opcRRxPayload] ++ stopEffects c
      ++ listenEffects c

/-! What holds of every action on a list. -/

section

variable {c : Cfg} {Q : Effect → Prop}

@[simp] theorem forall_mem_guarded {p : Prop} [Decidable p] {l : List Effect} :
    (∀ e ∈ (if p then l else []), Q e) ↔ (p → ∀ e ∈ l, Q e) := by
  split
  · simp [*]
  · simp [*]

@[simp] theorem forall_validatedEffects {a : Byte} : (∀ e ∈ validatedEffects a, Q e) ↔
    Q (.frame (writeOpcode a)) ∧ Q (.frame (readOpcode a)) ∧ Q (.cache a) := by
  simp [validatedEffects]

@[simp] theorem forall_initEffects : (∀ e ∈ initEffects c, Q e) ↔
    (∀ a ∈ baselineAddresses, Q (.frame (readOpcode a)) ∧ Q (.cache a)) ∧
      (∀ a ∈ configuredRegisters c, ∀ e ∈ validatedEffects a, Q e) ∧ Q .wait ∧ Q .initialise := by
  simp only [initEffects, List.forall_mem_append, List.forall_mem_flatMap, List.forall_mem_cons, List.not_mem_nil, false_implies,
    implies_true, and_true, and_assoc]

@[simp] theorem forall_clearEffects : (∀ e ∈ clearEffects c, Q e) ↔ Q (.frame (writeOpcode c.regStatus)) := by
  simp [clearEffects]

@[simp] theorem forall_listenEffects : (∀ e ∈ listenEffects c, Q e) ↔
    (∀ e ∈ clearEffects c, Q e) ∧ (∀ e ∈ validatedEffects c.regConfig, Q e) ∧ Q .ceHigh := by
  simp only [listenEffects, List.forall_mem_append, List.forall_mem_singleton, and_assoc]

@[simp] theorem forall_stopEffects : (∀ e ∈ stopEffects c, Q e) ↔ Q .ceLow ∧ Q (.frame c.opcFlushRx) := by
  simp [stopEffects]

@[simp] theorem forall_startEffects : (∀ e ∈ startEffects c, Q e) ↔
    (∀ e ∈ clearEffects c, Q e) ∧ (∀ e ∈ validatedEffects c.regConfig, Q e) ∧ Q (.frame c.opcFlushTx) ∧
      Q (.frame c.opcWTxPayload) := by
  simp only [startEffects, List.forall_mem_append, List.forall_mem_cons, List.not_mem_nil, false_implies,
    implies_true, and_true, and_assoc]

@[simp] theorem forall_initiateEffects : (∀ e ∈ initiateEffects, Q e) ↔ Q .ceHigh ∧ Q .wait ∧ Q .ceLow := by
  simp [initiateEffects]

@[simp] theorem forall_endEffects : (∀ e ∈ endEffects c, Q e) ↔ Q (.frame c.opcNop) ∧ ∀ e ∈ clearEffects c, Q e :=
  List.forall_mem_cons

@[simp] theorem forall_sendEffects : (∀ e ∈ sendEffects c, Q e) ↔
    (∀ e ∈ startEffects c, Q e) ∧ (∀ e ∈ initiateEffects, Q e) ∧ ∀ e ∈ endEffects c, Q e := by
  simp only [sendEffects, List.forall_mem_append, and_assoc]

end

/-- Every kind of action listed keeps `D`. -/
abbrev AllKept (D : State → Prop) (l : List Effect) : Prop := ∀ e ∈ l, e.Keeps D

section

variable {c : Cfg} {D : State → Prop}

/-! Frames. -/

theorem readFrame_keeps {a : Byte} (h : (Effect.frame (readOpcode a)).Keeps D) :
    Keep D (fun _ => D) (readRegisterBody a) := by
  obtain ⟨A, B, p⟩ := h 1
  exact readRegisterBody_keeps p (Nat.le_refl 1)

theorem writeFrame_keeps {a : Byte} (h : (Effect.frame (writeOpcode a)).Keeps D) (d : Byte) :
    Keep D (fun _ => D) (writeRegisterBody a d) := by
  obtain ⟨A, B, p⟩ := h 1
  exact writeRegisterBody_keeps d p (Nat.le_refl 1)

theorem commandFrame_keeps {b : Byte} (h : (Effect.frame b).Keeps D) : Keep D (fun _ => D) (writeCommandBody b) := by
  obtain ⟨A, B, p⟩ := h 0
  exact writeCommandBody_keeps p

theorem burstFrame_keeps {a : Byte} (h : (Effect.frame (writeOpcode a)).Keeps D) (l : List Byte) :
    Keep D (fun _ => D) (writeRegisterBurstBody a l) := by
  obtain ⟨A, B, p⟩ := h l.length
  exact writeRegisterBurstBody_keeps p (Nat.le_refl _)

theorem loadFrame_keeps (h : (Effect.frame c.opcWTxPayload).Keeps D) (n : Byte) (buf : List Byte) :
    Keep D (fun _ => D) (writeFifoBody c n buf) := by
  obtain ⟨A, B, p⟩ := h n.toNat
  exact writeFifoBody_keeps buf p (Nat.le_refl _)

theorem fetchFrame_keeps (h : (Effect.frame c.opcRRxPayload).Keeps D) (n : Byte) :
    Keep D (fun _ => D) (readFifoBody c n) := by
  obtain ⟨A, B, p⟩ := h n.toNat
  exact readFifoBody_keeps p (Nat.le_refl _)

theorem rawFrame_keeps {op : Byte} (h : (Effect.frame op).Keeps D) (data : List Byte) :
    Keep D (fun _ => D) (frameBody (op :: data)) := by
  obtain ⟨A, B, p⟩ := h data.length
  exact frameBody_keeps p (Nat.le_refl _)

/-! Operations of several frames. -/

theorem validated_keeps (hb : Blind D) {a : Byte} (h : AllKept D (validatedEffects a)) (d : Byte) :
    Keep D (fun _ => D) (writeValidatedBody a d) := by
  obtain ⟨hw, hr, hc⟩ := forall_validatedEffects.mp h
  exact writeValidatedBody_keeps hb (writeFrame_keeps hw d) (readFrame_keeps hr) (hc d)

theorem init_keeps (hb : Blind D) (h : AllKept D (initEffects c)) : Keep D (fun _ => D) (initBody c) := by
  obtain ⟨hbase, hconf, hwait, hinit⟩ := forall_initEffects.mp h
  have v : ∀ a ∈ configuredRegisters c, ∀ k d, Keep D (fun _ => D) (configure k a d) := fun a ha k d =>
    configure_keeps hb (Keep.call hb (validated_keeps hb (hconf a ha) d))
  have tx := (forall_validatedEffects.mp (hconf c.regTxAddr (by simp [configuredRegisters]))).1
  refine Keep.bind (readBaseline_keeps hb _ (fun a ha => readFrame_keeps (hbase a ha).1)
    (fun a ha s hs => (hbase a ha).2 s.port.shiftIn s hs)) fun _ => ?_
  refine Keep.bind (v _ (by simp [configuredRegisters]) _ _) fun _ => Keep.bind (hwait _) fun _ => ?_
  refine Keep.bind (v _ (by simp [configuredRegisters]) _ _) fun _ => ?_
  refine Keep.bind (v _ (by simp [configuredRegisters]) _ _) fun _ => ?_
  refine Keep.bind (v _ (by simp [configuredRegisters]) _ _) fun _ => ?_
  refine Keep.bind (v _ (by simp [configuredRegisters]) _ _) fun _ => ?_
  refine Keep.bind (v _ (by simp [configuredRegisters]) _ _) fun _ => ?_
  refine Keep.bind (Keep.call hb (burstFrame_keeps tx _)) fun _ => ?_
  refine Keep.bind (v _ (by simp [configuredRegisters]) _ _) fun _ => ?_
  exact Keep.bind (Keep.internal hb hinit) fun _ => Keep.bind Keep.locals fun _ => Keep.pure _

theorem clear_keeps (hb : Blind D) (h : AllKept D (clearEffects c)) (m : Byte) :
    Keep D (fun _ => D) (clearFlagsBody c m) :=
  clearFlagsBody_keeps hb (writeFrame_keeps (forall_clearEffects.mp h))

theorem mode_keeps (hb : Blind D) (h : AllKept D (validatedEffects c.regConfig)) (m : Byte) :
    Keep D (fun _ => D) (setModeBitBody c m) :=
  Keep.bind Keep.get fun _ => Keep.call hb (validated_keeps hb h _)

theorem listen_keeps (hb : Blind D) (h : AllKept D (listenEffects c)) : Keep D (fun _ => D) (startListeningBody c) := by
  obtain ⟨hf, hm, hce⟩ := forall_listenEffects.mp h
  exact startListeningBody_keeps hb (clear_keeps hb hf _) (mode_keeps hb hm _) hce

theorem stop_keeps (hb : Blind D) (h : AllKept D (stopEffects c)) : Keep D (fun _ => D) (stopListeningBody c) := by
  obtain ⟨hce, hx⟩ := forall_stopEffects.mp h
  exact stopListeningBody_keeps hb hce (commandFrame_keeps hx)

theorem start_keeps (hb : Blind D) (h : AllKept D (startEffects c)) (n : Byte) (buf : List Byte) :
    Keep D (fun _ => D) (startBody c n buf) := by
  obtain ⟨hf, hm, hx, hl⟩ := forall_startEffects.mp h
  exact startBody_keeps hb (clear_keeps hb hf _) (mode_keeps hb hm _) (commandFrame_keeps hx) (loadFrame_keeps hl n buf)

theorem initiate_keeps (h : AllKept D initiateEffects) : Keep D (fun _ => D) initiateBody := by
  obtain ⟨hh, hw, hl⟩ := forall_initiateEffects.mp h
  exact initiateBody_keeps hh (hw _) hl

theorem end_keeps (hb : Blind D) (h : AllKept D (endEffects c)) : Keep D (fun _ => D) (endBody c) := by
  obtain ⟨hx, hf⟩ := forall_endEffects.mp h
  exact endBody_keeps hb (commandFrame_keeps hx) (clear_keeps hb hf _) (fun _ hs => hs) hb

theorem send_keeps (hb : Blind D) (h : AllKept D (sendEffects c)) (n : Byte) (buf : List Byte) :
    Keep D (fun _ => D) (sendBody c n buf) := by
  obtain ⟨hs, hi, he⟩ := forall_sendEffects.mp h
  exact sendBody_keeps hb (start_keeps hb hs n buf) (initiate_keeps hi) (end_keeps hb he)

theorem boot_keeps (hb : Blind D) (h : AllKept D (effects c .boot)) : Keep D (fun _ => D) (bootBody c) := by
  simp only [effects, AllKept, List.forall_mem_append, List.forall_mem_cons] at h
  obtain ⟨⟨⟨hboard, harm, -⟩, hi⟩, hl⟩ := h
  exact bootBody_keeps hb hboard (init_keeps hb hi) (listen_keeps hb hl) harm

/-- The Child's tick sounds one pattern only (44_telemetry_loop.md R235), which `childTickBody_keeps` does not say. -/
theorem child_keeps (hb : Blind D) (h : AllKept D (effects c .childTick)) : Keep D (fun _ => D) (childTickBody c) := by
  simp only [effects, AllKept, List.forall_mem_append, List.forall_mem_cons] at h
  obtain ⟨⟨hd, hsam, ha, -⟩, hs⟩ := h
  exact Keep.bind Keep.get fun _ => Keep.ite
    (fun _ => Keep.bind (Keep.internal hb (hd 0)) fun _ => Keep.bind (sampleSensor_keeps hb hsam) fun _ =>
      Keep.bind (Keep.call hb (Keep.guarded (send_keeps hb hs _ _))) fun _ =>
        Keep.ite (fun _ => Keep.internal hb ha) fun _ => Keep.pure _)
    fun _ => Keep.internal hb (hd _)

theorem parent_keeps (hb : Blind D) (h : AllKept D (effects c .parentTick)) : Keep D (fun _ => D) (parentTickBody c) := by
  simp only [effects, AllKept, List.forall_mem_append, List.forall_mem_cons] at h
  obtain ⟨⟨⟨hcount, hdown, hover, hx, hf, -⟩, hst⟩, hl⟩ := h
  have ha : ∀ p s, D s → D (s.alerted p) := fun p => by
    cases p
    · exact hover
    · exact hdown
  exact parentTickBody_keeps hb (countTick_keeps hb hcount ha) (pollReceivedBody_keeps hb (commandFrame_keeps hx))
    (takePayload_keeps hb (fetchFrame_keeps hf _) (stop_keeps hb hst) (listen_keeps hb hl) hcount ha)

end

/-! Instructions. -/

/-- A property of the nodes with configuration `c` that looks neither at the sequencer nor at the response port. -/
structure Neutral (c : Cfg) (D : State → Prop) : Prop where
  cfg : ∀ s, D s → s.cfg = c
  blind : Blind D
  resp : ∀ s r, D s → D { s with resp := r }

section

variable {D : State → Prop} {s t : State}

/-- What an operation keeps its service keeps. -/
theorem Neutral.serve (k : Neutral s.cfg D) {task : Task} {m : Eng Reply} (h : Machine.serve task m s = .next t)
    (hs : D s) (hm : Keep D (fun _ => D) m) : D t :=
  serve_keeps k.blind (fun _ _ h => h) k.resp hm hs h

theorem Neutral.runFrame (k : Neutral s.cfg D) {op : Byte} {data : List Byte}
    (h : Machine.runFrame (op :: data) s = .next t) (hs : D s) (hf : (Effect.frame op).Keeps D) : D t :=
  k.serve (runFrame_next h).1 hs (rawFrame_keeps hf data)

/-- What every action on an instruction's list keeps, the instruction keeps. -/
theorem Neutral.exec (k : Neutral s.cfg D) {i : Instr} (he : AllKept D (effects s.cfg i)) (h : Machine.exec i s = .next t)
    (hs : D s) : D t := by
  have hb := k.blind
  have only : ∀ {e}, effects s.cfg i = [e] → e.Keeps D := fun h1 => he _ (h1 ▸ List.mem_singleton.mpr rfl)
  have address : ∀ {a} {l : List Effect}, effects s.cfg i = (if a ≤ Config.regHi then l else []) →
      ∀ u, addressRefusal a u = none → AllKept D l := fun h1 u hw => by
    rw [h1, if_pos (le_of_addressRefusal hw)] at he; exact he
  cases i with
  | rRegister | wRegister | rRxPayload | wTxPayload | busFlushTx | busFlushRx | busNop => exact k.runFrame h hs (only rfl)
  | readRegister a => exact k.serve h hs (guarded_keeps fun u _ hw =>
      reply_keeps (readFrame_keeps (address rfl u hw _ (List.mem_singleton.mpr rfl))))
  | writeRegister a d => exact k.serve h hs (guarded_keeps fun u _ hw =>
      reply_keeps (writeFrame_keeps (address rfl u hw _ (List.mem_singleton.mpr rfl)) d))
  | writeCommand d => exact k.serve h hs (guarded_keeps fun u hu hw => by
      rw [effects, if_pos (k.cfg u hu ▸ command_of_commandRefusal hw)] at he
      exact reply_keeps (commandFrame_keeps (he _ (List.mem_singleton.mpr rfl))))
  | writeRegisterBurst a n buf => exact k.serve h hs (guarded_keeps fun u _ hw => by
      rw [effects, if_pos (le_of_burstRefusal hw).1] at he
      exact reply_keeps (burstFrame_keeps (he _ (List.mem_singleton.mpr rfl)) _))
  | writeValidated a d => exact k.serve h hs (guarded_keeps fun u _ hw =>
      reply_keeps (validated_keeps hb (address rfl u hw) d))
  | init => exact k.serve h hs (reply_keeps (init_keeps hb he))
  | writeFifo n buf => exact k.serve h hs (Keep.guarded (reply_keeps (loadFrame_keeps (only rfl) n buf)))
  | readFifo n => exact k.serve h hs (Keep.guarded (reply_keeps (fetchFrame_keeps (only rfl) n)))
  | flushTx => exact k.serve h hs (reply_keeps (writeCommand_keeps hb (commandFrame_keeps (only rfl))))
  | flushRx => exact k.serve h hs (reply_keeps (writeCommand_keeps hb (commandFrame_keeps (only rfl))))
  | clearFlags d => exact k.serve h hs (reply_keeps (clear_keeps hb he d))
  | send n buf => exact k.serve h hs (Keep.guarded (send_keeps hb he n buf))
  | start n buf => exact k.serve h hs (Keep.guarded (reply_keeps (start_keeps hb he n buf)))
  | initiate => exact k.serve h hs (Keep.guarded (reply_keeps (initiate_keeps he)))
  | endSend => exact k.serve h hs (reply_keeps (end_keeps hb he))
  | setModeBit d => exact k.serve h hs (Keep.guarded (reply_keeps (mode_keeps hb he d)))
  | startListening => exact k.serve h hs (Keep.guarded (listen_keeps hb he))
  | stopListening => exact k.serve h hs (reply_keeps (stop_keeps hb he))
  | getMode => exact k.serve h hs (Keep.guarded (Keep.bind Keep.get fun _ => Keep.pure _))
  | pollReceived => exact k.serve h hs (reply_keeps (pollReceivedBody_keeps hb (commandFrame_keeps (only rfl))))
  | boot => exact k.serve h hs (reply_keeps (boot_keeps hb he))
  | childTick => exact k.serve h hs (reply_keeps (child_keeps hb he))
  | parentTick => exact k.serve h hs (reply_keeps (parent_keeps hb he))

end

end Sys2Proof.Machine
end

section
/-! What each kind of action leaves alone outside the device, the bus and the sequencer, and the statements about the cache,
the host's state and the configuration inputs that follow for whole instructions (10_state.md R21, R22, R45). -/

namespace Sys2Proof.Machine

/-- What an action of kind `e` that leads from `s` to `t` leaves alone of the configuration inputs, the cache, the host's
state and the alerts sounded. -/
structure Effect.Spares (e : Effect) (s t : State) : Prop where
  cfg : t.cfg = s.cfg := by rfl
  cached : ∀ a, e ≠ .cache a → t.cached a = s.cached a := by exact fun _ _ => rfl
  initialised : e ≠ .initialise → t.initialised = s.initialised := by exact fun _ => rfl
  stays : s.initialised = true → t.initialised = true := by exact id
  countdown : e ≠ .countdown → t.countdown = s.countdown := by exact fun _ => rfl
  tickdiv : e ≠ .tickdiv → t.tickdiv = s.tickdiv := by exact fun _ => rfl
  tickArmed : e ≠ .arm → t.tickArmed = s.tickArmed := by exact fun _ => rfl
  sensor : e ≠ .sample → t.sensor = s.sensor := by exact fun _ => rfl
  alerts : ∀ p, e ≠ .alert p → alerts p t.trace = alerts p s.trace := by exact fun _ _ => rfl

/-- A token of the bus or the lines is no alert. -/
theorem alerts_cons_of_ne {k : TraceEvent} (hk : ∀ p, k ≠ .alert p) (p : AlertPattern) (l : List TraceEvent) :
    alerts p (k :: l) = alerts p l := List.count_cons_of_ne (hk p)

namespace Effect.Spares

variable {e : Effect} {s t u : State}

theorem trans (h : e.Spares s t) (k : e.Spares t u) : e.Spares s u where
  cfg := k.cfg.trans h.cfg
  cached := fun a ha => (k.cached a ha).trans (h.cached a ha)
  initialised := fun he => (k.initialised he).trans (h.initialised he)
  stays := k.stays ∘ h.stays
  countdown := fun he => (k.countdown he).trans (h.countdown he)
  tickdiv := fun he => (k.tickdiv he).trans (h.tickdiv he)
  tickArmed := fun he => (k.tickArmed he).trans (h.tickArmed he)
  sensor := fun he => (k.sensor he).trans (h.sensor he)
  alerts := fun p hp => (k.alerts p hp).trans (h.alerts p hp)

theorem gap (e : Effect) (s : State) : e.Spares s (gap s) where
  cfg := gap_cfg s
  cached := fun a _ => gap_cached s a
  initialised := fun _ => gap_initialised s
  stays := (gap_initialised s).trans
  countdown := fun _ => gap_countdown s
  tickdiv := fun _ => gap_tickdiv s
  tickArmed := fun _ => gap_tickArmed s
  sensor := fun _ => gap_sensor s
  alerts := fun p _ => by rw [gap_trace]

theorem stamped {k : TraceEvent} (hk : ∀ p, k ≠ .alert p) (h : e.Spares s t) : e.Spares s (t.stamped k) :=
  h.trans { alerts := fun p _ => alerts_cons_of_ne hk p _ }

theorem exchanged (e : Effect) (shown : Bool) (out : Byte) (s : State) : e.Spares s (s.exchanged shown out) where
  alerts p _ := alerts_cons_of_ne (k := .xchg _ _) nofun p _

theorem raised (e : Effect) (s : State) : e.Spares s s.raised where
  cfg := s.raised_cfg
  cached := fun a _ => State.cached_congr s.raised_cache a
  initialised := fun _ => s.raised_initialised
  stays := s.raised_initialised.trans
  countdown := fun _ => s.raised_countdown
  tickdiv := fun _ => s.raised_tickdiv
  tickArmed := fun _ => s.raised_tickArmed
  sensor := fun _ => s.raised_sensor
  alerts := fun p _ => by rw [State.raised_trace]

end Effect.Spares

/-- What survives every step that spares what `e` spares, actions of kind `e` keep. -/
theorem Effect.keeps_of_spares {D : State → Prop} {e : Effect} (h : ∀ s t, e.Spares s t → D s → D t) : e.Keeps D := by
  have bus : ∀ s t, e.Spares (gap s) t → D s → D t := fun s t k => h s t ((Spares.gap e s).trans k)
  cases e with
  | frame op =>
    exact fun limit => ⟨D, fun _ => D,
      { opened := fun s => bus s _ (.stamped nofun {})
        opcode := fun s shown => bus s _ (.exchanged _ shown op _)
        opcodeStuck := fun s hs _ => bus s _ {} hs
        data := fun s shown out _ _ => bus s _ (.exchanged _ shown out _)
        dataStuck := fun s _ _ _ hs _ => bus s _ {} hs
        noted := fun s _ _ => h s _ {}
        closed := fun s _ _ => bus s _ (.stamped nofun {}) }⟩
  | ceHigh => exact fun s => bus s _ (.stamped nofun (.raised _ _))
  | ceLow => exact fun s => bus s _ (.stamped nofun {})
  | wait => exact fun us s => bus s _ (.stamped nofun {})
  | board => exact fun s => h s _ { alerts := fun p _ => alerts_cons_of_ne (k := .boardInit) nofun p _ }
  | cache a =>
    exact fun v s => h s _ { cached := fun b hb => (s.cached_setCached a b v).trans (if_neg fun hab => hb (congrArg _ hab)) }
  | initialise => exact fun s => h s _ { initialised := fun he => absurd rfl he, stays := fun _ => rfl }
  | arm => exact fun s => h s _ { tickArmed := fun he => absurd rfl he }
  | alert p => exact fun s => h s _ { alerts := fun q hq => List.count_cons_of_ne fun hpq => hq (by cases hpq; rfl) }
  | sample => exact fun s => h s _ { sensor := fun he => absurd rfl he }
  | tickdiv => exact fun n s => h s _ { tickdiv := fun he => absurd rfl he }
  | countdown => exact fun n s => h s _ { countdown := fun he => absurd rfl he }

/-! Who performs them. -/

/-- The instructions whose list holds an action of this kind (40_register_interface.md R130, 44_telemetry_loop.md R231). -/
def Effect.Owned (c : Cfg) (i : Instr) : Effect → Prop
  | .cache a => mayCache c a i = true
  | .initialise => i = .init ∨ i = .boot
  | .arm => i = .boot
  | .alert .overThreshold => i = .childTick ∨ i = .parentTick
  | .alert .linkDown => i = .parentTick
  | .sample => i = .childTick
  | .tickdiv => i = .childTick
  | .countdown => i = .parentTick
  | .frame _ => True
  | .ceHigh => True
  | .ceLow => True
  | .wait => True
  | .board => True

theorem effects_owned (c : Cfg) (i : Instr) : ∀ e ∈ effects c i, e.Owned c i := by
  cases i
  all_goals
    simp only [effects, forall_mem_guarded, List.forall_mem_append]
    simp [Effect.Owned, mayCache]

/-- What is changed by actions of kind `x` at most, an instruction that has no such action leaves alone. -/
theorem exec_spares {α : Type} (f : State → α) (hf : ∀ u q r, f { u with seq := q, resp := r } = f u) (x : Effect)
    (hx : ∀ (e : Effect) (u w : State), e ≠ x → e.Spares u w → f w = f u) {i : Instr} {s t : State} (hi : ¬ x.Owned s.cfg i)
    (h : exec i s = .next t) : f t = f s := by
  have neutral : Neutral s.cfg fun u => u.cfg = s.cfg ∧ f u = f s :=
    ⟨fun _ hu => hu.1, fun u q hu => ⟨hu.1, (hf u q u.resp).trans hu.2⟩, fun u r hu => ⟨hu.1, (hf u u.seq r).trans hu.2⟩⟩
  refine (neutral.exec (fun e he => Effect.keeps_of_spares fun u w k hu => ⟨k.cfg.trans hu.1, ?_⟩) h ⟨rfl, rfl⟩).2
  have apart : e ≠ x := fun ex => hi (ex ▸ effects_owned s.cfg i e he)
  exact (hx e u w apart k).trans hu.2

end Sys2Proof.Machine

namespace Sys2Proof

open Sys2Proof.Machine

/-- Settles O56: only actions of kind `.cache a` store in the entry of `a`, and `mayCache` names the instructions that have
one. -/
theorem cacheFrame : Obligations.CacheFrame := fun _ _ _ a h hi =>
  exec_spares (·.cached a) (fun _ _ _ => rfl) (.cache a) (fun _ _ _ hne k => k.cached a hne)
    (fun ho => Bool.false_ne_true (hi.symm.trans ho)) h

/-- Settles O60: for each part of the host's state, the one kind of action that moves it and the instructions that have such an
action. -/
theorem hostStateFrame : Obligations.HostStateFrame := fun _ _ _ h =>
  ⟨fun hi => ⟨exec_spares (·.countdown) (fun _ _ _ => rfl) .countdown (fun _ _ _ hne k => k.countdown hne) hi h,
      exec_spares (fun u => alerts .linkDown u.trace) (fun _ _ _ => rfl) (.alert .linkDown)
        (fun _ _ _ hne k => k.alerts _ hne) hi h⟩,
    fun hi => ⟨exec_spares (·.tickdiv) (fun _ _ _ => rfl) .tickdiv (fun _ _ _ hne k => k.tickdiv hne) hi h,
      exec_spares (·.sensor) (fun _ _ _ => rfl) .sample (fun _ _ _ hne k => k.sensor hne) hi h⟩,
    fun hi => exec_spares (·.tickArmed) (fun _ _ _ => rfl) .arm (fun _ _ _ hne k => k.tickArmed hne) hi h,
    fun hi hi' => exec_spares (·.initialised) (fun _ _ _ => rfl) .initialise (fun _ _ _ hne k => k.initialised hne)
      (not_or.mpr ⟨hi, hi'⟩) h,
    fun hi hi' => exec_spares (fun u => alerts .overThreshold u.trace) (fun _ _ _ => rfl) (.alert .overThreshold)
      (fun _ _ _ hne k => k.alerts _ hne) (not_or.mpr ⟨hi, hi'⟩) h⟩

end Sys2Proof
end

section
/-! What a step can do (30_encoding.md R103, 60_exceptions.md R293), and what every step keeps of the configuration inputs and
the initialisation. -/

namespace Sys2Proof.Machine

/-- A step runs the instruction on the request port, refuses what is on it, passes over it, runs it as a frame the device does
not know, or, with nothing there, goes on. -/
theorem step_cases {s t : State} (h : step s = .next t) :
    (∃ i, exec i (fetched s) = .next t) ∨ t = refuse .unknownOp (fetched s) ∨ t = fetched s ∨
      (∃ op data, runFrame (op :: data) (fetched s) = .next t) ∨ (s.inbox = none ∧ t = resume s) := by
  unfold step at h
  split at h
  · cases h
  cases hb : s.inbox with
  | none => rw [hb] at h; cases h; exact .inr (.inr (.inr (.inr ⟨rfl, rfl⟩)))
  | some b =>
    rw [hb, serveInbox] at h
    cases hd : decode s.cfg.toOpcodes b with
    | ok i => rw [hd] at h; exact .inl ⟨i, h⟩
    | error e =>
      rw [hd, execute] at h
      cases b with
      | request bytes => cases h; exact .inr (.inl rfl)
      | frame bytes =>
        cases bytes with
        | nil => cases hd; cases h; exact .inr (.inr (.inl rfl))
        | cons op data =>
          cases e with
          | emptyFrame | unknownOp => cases h; exact .inr (.inr (.inl rfl))
          | badOpcode | frameTooLong => exact .inr (.inr (.inr (.inl ⟨op, data, h⟩)))

section

variable {D : State → Prop} {s : State}

/-- What an alert of the Child keeps, End returning into its callers keeps. -/
theorem Neutral.returnInto {c : Cfg} (k : Neutral c D) (ha : (Effect.alert .overThreshold).Keeps D) (q : List Position)
    (r : Reply) {u : State} (hu : D u) : D (returnInto q r u) := by
  induction q generalizing r u with
  | nil => exact k.resp _ _ (k.blind _ _ hu)
  | cons p q ih =>
    rw [Machine.returnInto]
    split
    · exact ih _ hu
    · refine ih _ ?_
      unfold evaluate
      split
      · exact k.blind _ _ (ha u hu)
      · exact hu
    · exact ih _ hu

/-- What a gap, a round of End, an alert and a single action keep, a node with nothing on its port keeps. -/
theorem Neutral.resume (k : Neutral s.cfg D) (hgap : D (gap s)) (he : AllKept D (endEffects s.cfg))
    (ha : (Effect.alert .overThreshold).Keeps D) (hact : D (act s)) (hs : D s) : D (resume s) := by
  unfold Machine.resume resumeAt
  split
  · exact hgap
  · split
    · have := end_keeps k.blind he s hs
      revert this
      cases (endBody s.cfg).run s with
      | ok st u => exact fun hu => k.returnInto ha _ _ hu
      | error w u => exact fun hu => hu
    · exact hact

end

/-- The configuration inputs are those of `s`, and no initialisation of `s` is undone. -/
def Onward (s u : State) : Prop := u.cfg = s.cfg ∧ (s.initialised = true → u.initialised = true)

theorem onward_neutral (s : State) : Neutral s.cfg (Onward s) := ⟨fun _ h => h.1, fun _ _ h => h, fun _ _ h => h⟩

theorem onward_keeps (s : State) (e : Effect) : e.Keeps (Onward s) :=
  Effect.keeps_of_spares fun _ _ k h => ⟨k.cfg.trans h.1, k.stays ∘ h.2⟩

end Sys2Proof.Machine

namespace Sys2Proof

open Sys2Proof.Machine

/-- Settles O55: no kind of action does so, hence no instruction, no frame, and none of the ways a node goes on. -/
theorem configurationNeverChanges : Obligations.ConfigurationNeverChanges := by
  intro s t h
  have start : Onward s (fetched s) := ⟨rfl, id⟩
  obtain ⟨i, hi⟩ | rfl | rfl | ⟨op, data, hf⟩ | ⟨-, rfl⟩ := step_cases h
  · exact (onward_neutral (fetched s)).exec (fun e _ => onward_keeps _ e) hi start
  · exact start
  · exact start
  · exact (onward_neutral (fetched s)).runFrame hf start (onward_keeps _ _)
  · exact (onward_neutral s).resume ⟨gap_cfg s, (gap_initialised s).trans⟩ (fun e _ => onward_keeps s e) (onward_keeps s _)
      (act_mild s) ⟨rfl, id⟩

end Sys2Proof
end

section
/-! The device's flags and FIFOs when no other agent steps (10_state.md R35, 20_memory.md R61): which opcodes, and which
actions of the enable line, can change them. -/

namespace Sys2Proof.Machine

/-! The place of a frame. -/

/-- The opcode whose data bytes are being exchanged, or whose frame ends with a commit. -/
def DevFrame.opcode : DevFrame → Option Opcode
  | .regRead a _ => some (.readReg a)
  | .regWrite a _ => some (.writeReg a)
  | .rxRead _ => some .readRx
  | .txWrite _ => some .writeTx
  | .none => Option.none
  | .awaitOpcode => Option.none
  | .done => Option.none

/-- The opcode is behind, and it was not `x`. -/
def DevFrame.Past (x : Opcode) (f : DevFrame) : Prop := f ≠ .awaitOpcode ∧ f.opcode ≠ some x

theorem Device.openFrame_past {c : Cfg} {op : Byte} {x : Opcode} (h : decodeOpcode c.toOpcodes op ≠ some x) (d : Device) :
    (d.openFrame c op).frame.Past x := by
  unfold Device.openFrame
  split
  case h_1 hk | h_2 hk | h_3 hk | h_4 hk => exact ⟨nofun, fun e => h (hk.trans e)⟩
  all_goals exact ⟨nofun, nofun⟩

theorem Device.exchange_past {c : Cfg} {draw out : Byte} {x : Opcode} {d : Device} (h : d.frame.Past x) :
    (d.exchange c draw out).2.frame.Past x := by
  rw [Device.exchange_frame]
  cases hf : d.frame with
  | awaitOpcode => exact absurd hf h.1
  | none | regRead | regWrite | rxRead | txWrite | done => rw [hf] at h; exact ⟨nofun, h.2⟩

/-! A property of the device. -/

/-- `P` looks neither at the frame state nor at a burst that ends. -/
structure DevicePart (P : Device → Prop) : Prop where
  inFrame : ∀ f d, P d → P (d.inFrame f)
  finish : ∀ b d, d.burst = some b → P d → P (d.finishBurst b)

/-- `P` holds all along a frame with opcode byte `op`, which is not opcode `x`. -/
structure FramePart (c : Cfg) (op : Byte) (x : Opcode) (P : Device → Prop) : Prop where
  other : decodeOpcode c.toOpcodes op ≠ some x
  exchange : ∀ draw out d, (d.frame = .awaitOpcode → out = op) → d.frame.opcode ≠ some x → P d → P (d.exchange c draw out).2
  commit : ∀ d, d.frame.opcode ≠ some x → P d → P (d.commit c)

/-- A node with configuration `c` and an empty schedule whose device meets `P`. -/
def Still (c : Cfg) (P : Device → Prop) (s : State) : Prop := s.cfg = c ∧ s.env = [] ∧ P s.dev

/-- And its device, if it is there, is at a place of a frame that meets `F`. -/
def StillIn (c : Cfg) (P : Device → Prop) (F : DevFrame → Prop) (s : State) : Prop :=
  Still c P s ∧ (c.present = true → F s.dev.frame)

section

variable {c : Cfg} {P : Device → Prop} {F : DevFrame → Prop} {s : State}

/-- With an empty schedule a gap completes a burst at most. -/
theorem Still.gap (hp : DevicePart P) (h : Still c P s) : Still c P (gap s) := by
  obtain ⟨hc, he, hd⟩ := h
  refine ⟨(gap_cfg s).trans hc, (gap_idle he).1, ?_⟩
  simp only [Machine.gap, he, gapOf, transmitComplete]
  split_ifs
  · cases hb : s.dev.burst with
    | none => exact hd
    | some b => exact hp.finish b _ hb hd
  · exact hd
  · exact hd

theorem StillIn.gap (hp : DevicePart P) (h : StillIn c P F s) : StillIn c P F (gap s) :=
  ⟨h.1.gap hp, fun hc => by rw [gap_frame]; exact h.2 hc⟩

theorem still_protocol {op : Byte} {x : Opcode} (hp : DevicePart P) (hf : FramePart c op x P) (limit : Nat) :
    Protocol op limit (Still c P) (StillIn c P (· = .awaitOpcode)) (fun _ => StillIn c P (DevFrame.Past x))
      fun _ => Still c P := by
  have opened : ∀ s, Still c P s → StillIn c P (· = .awaitOpcode) (s.selected.stamped .csnAssert) := by
    rintro s ⟨rfl, he, hd⟩
    refine ⟨⟨rfl, he, ?_⟩, fun hc => congrArg Device.frame (onDevice_present Device.select hc)⟩
    show P (s.onDevice Device.select)
    unfold State.onDevice
    split
    · exact hp.inFrame _ _ hd
    · exact hd
  have opcode : ∀ s shown, StillIn c P (· = .awaitOpcode) s → StillIn c P (DevFrame.Past x) (s.exchanged shown op) := by
    rintro s shown ⟨⟨rfl, he, hd⟩, ha⟩
    refine ⟨⟨rfl, he, ?_⟩, fun hc => ?_⟩
    · rw [exchanged_dev]
      split
      · exact hf.exchange _ _ _ (fun _ => rfl) (by rw [ha ‹_›]; nofun) hd
      · exact hd
    · rw [exchanged_dev, if_pos hc, Device.exchange_open _ _ _ _ (ha hc)]
      exact Device.openFrame_past hf.other _
  have data : ∀ s shown out, StillIn c P (DevFrame.Past x) s → StillIn c P (DevFrame.Past x) (s.exchanged shown out) := by
    rintro s shown out ⟨⟨rfl, he, hd⟩, ha⟩
    refine ⟨⟨rfl, he, ?_⟩, fun hc => ?_⟩
    · rw [exchanged_dev]
      split
      · exact hf.exchange _ _ _ (fun e => absurd e (ha ‹_›).1) (ha ‹_›).2 hd
      · exact hd
    · rw [exchanged_dev, if_pos hc]
      exact Device.exchange_past (ha hc)
  have closed : ∀ s, StillIn c P (DevFrame.Past x) s → Still c P (s.deselected.stamped .csnDeassert) := by
    rintro s ⟨⟨rfl, he, hd⟩, ha⟩
    refine ⟨rfl, he, ?_⟩
    show P (s.onDevice (Device.deselect s.cfg))
    unfold State.onDevice
    split
    · exact hp.inFrame _ _ (hf.commit _ (ha ‹_›).2 hd)
    · exact hd
  exact
    { opened := fun s h => opened _ (h.gap hp)
      opcode := fun s shown h => opcode _ shown (h.gap hp)
      opcodeStuck := fun s h _ => h.1.gap hp
      data := fun s shown out _ _ h => data _ shown out (h.gap hp)
      dataStuck := fun s _ _ _ h _ => h.1.gap hp
      noted := fun _ _ _ h => h
      closed := fun s _ _ h => closed _ (h.gap hp) }

theorem raised_still (ht : ∀ fresh d, P d → P (d.trigger c fresh)) (h : Still c P s) : Still c P s.raised := by
  obtain ⟨rfl, he, hd⟩ := h
  refine ⟨s.raised_cfg, s.raised_env.trans he, ?_⟩
  cases hce : s.ce with
  | high => rw [State.raised_high hce]; exact hd
  | low =>
    rw [State.raised_low hce]
    show P (s.onDevice (Device.trigger s.cfg s.fresh))
    unfold State.onDevice
    split
    · exact ht _ _ hd
    · exact hd

/-- Actions keep a property of the device that their frame keeps and, if they raise the enable line, the start of a burst. -/
theorem Effect.keeps_still (hp : DevicePart P) {e : Effect} (hf : ∀ op, e = .frame op → ∃ x, FramePart c op x P)
    (ht : e = .ceHigh → ∀ fresh d, P d → P (d.trigger c fresh)) : e.Keeps (Still c P) := by
  cases e with
  | frame op =>
    obtain ⟨x, hx⟩ := hf op rfl
    exact fun limit => ⟨_, _, still_protocol hp hx limit⟩
  | ceHigh => exact fun s h => raised_still (ht rfl) (h.gap hp)
  | ceLow => exact fun s h => h.gap hp
  | wait => exact fun _ s h => h.gap hp
  | board => exact fun s h => ⟨h.1, h.2.1, hp.inFrame _ _ h.2.2⟩
  | cache | tickdiv | countdown => exact fun _ _ h => h
  | initialise | arm | alert | sample => exact fun _ h => h

end

end Sys2Proof.Machine
end

section
/-! Which instructions may open a frame, or raise the enable line, that changes a flag or a FIFO, and the frame of the flags
and the FIFOs (10_state.md R35, 20_memory.md R61). -/

namespace Sys2Proof.Machine

/-! Opcodes below the fixed commands. -/

theorem decodeOpcode_low {o : Opcodes} (ho : o.ok = true) {b : Byte} (hb : b ≤ 0x3F) : decodeOpcode o b =
    if b >>> Config.addrBits = 0b000 ∧ addressField b ≤ Config.regHi then some (.readReg (addressField b))
    else if b >>> Config.addrBits = 0b001 ∧ addressField b ≤ Config.regHi then some (.writeReg (addressField b))
    else none := by
  have ne : ∀ x ∈ o.all, b ≠ x := fun x hx e => BitVec.not_lt.mpr hb (e ▸ opcode_high ho hx)
  simp only [Opcodes.all, List.forall_mem_cons] at ne
  obtain ⟨h1, h2, h3, h4, h5, -⟩ := ne
  simp only [decodeOpcode, h1, h2, h3, h4, h5, if_false]

theorem readOpcode_fields : ∀ a : Byte, a ≤ 0x1F →
    readOpcode a ≤ 0x3F ∧ readOpcode a >>> Config.addrBits = 0b000 ∧ addressField (readOpcode a) = a := by decide

theorem writeOpcode_fields : ∀ a : Byte, a ≤ 0x1F →
    writeOpcode a ≤ 0x3F ∧ writeOpcode a >>> Config.addrBits = 0b001 ∧ addressField (writeOpcode a) = a := by decide

/-- A read opcode opens a read of its address, or, past the last register, nothing. -/
theorem eq_readReg_of_decode {o : Opcodes} (ho : o.ok = true) {a : Byte} (ha : a ≤ 0x1F) {k : Opcode}
    (h : decodeOpcode o (readOpcode a) = some k) : k = .readReg a := by
  obtain ⟨hb, hr, hf⟩ := readOpcode_fields a ha
  rw [decodeOpcode_low ho hb, hr, hf] at h
  split_ifs at h <;> simp_all

/-- And a write opcode a write. -/
theorem eq_writeReg_of_decode {o : Opcodes} (ho : o.ok = true) {a : Byte} (ha : a ≤ 0x1F) {k : Opcode}
    (h : decodeOpcode o (writeOpcode a) = some k) : k = .writeReg a := by
  obtain ⟨hb, hr, hf⟩ := writeOpcode_fields a ha
  rw [decodeOpcode_low ho hb, hr, hf] at h
  split_ifs at h <;> simp_all

theorem addr_le (addr : BitVec Config.addrBits) : addr.setWidth 8 ≤ (0x1F : Byte) := by
  revert addr; decide

theorem baseline_le : ∀ a ∈ baselineAddresses, a ≤ Config.regHi := by decide

theorem le_of_le_regHi {a : Byte} (h : a ≤ Config.regHi) : a ≤ 0x1F := BitVec.le_trans h (by decide)

/-! Licences. -/

/-- The instruction may open a frame of this opcode, as the tables of 10_state.md R35 and 20_memory.md R61 have it. -/
def OpcodeLicensed (c : Cfg) (i : Instr) : Opcode → Prop
  | .writeReg a => a = c.regStatus → mayFlag c i = true
  | .writeTx => mayTxFifo c i = true
  | .flushTx => mayTxFifo c i = true
  | .readRx => mayRxFifo c i = true
  | .flushRx => mayRxFifo c i = true
  | .readReg _ => True
  | .nop => True

/-- The instruction may perform actions of this kind: a burst changes flags and the transmit FIFO when it ends. -/
def Effect.Licensed (c : Cfg) (i : Instr) : Effect → Prop
  | .frame op => ∀ k, decodeOpcode c.toOpcodes op = some k → OpcodeLicensed c i k
  | .ceHigh => mayFlag c i = true ∧ mayTxFifo c i = true
  | _ => True

section

variable {c : Cfg} {i : Instr}

theorem licensed_of_decode {op : Byte} {k : Opcode} (h : decodeOpcode c.toOpcodes op = some k) (hk : OpcodeLicensed c i k) :
    (Effect.frame op).Licensed c i := fun _ h' => by
  cases h.symm.trans h'
  exact hk

variable (hm : c.mapped = true)

include hm

theorem read_licensed {a : Byte} (ha : a ≤ 0x1F) : (Effect.frame (readOpcode a)).Licensed c i := fun _ hk => by
  rw [eq_readReg_of_decode (mapped_opcodes hm) ha hk]
  trivial

theorem write_licensed {a : Byte} (ha : a ≤ 0x1F) (hf : a = c.regStatus → mayFlag c i = true) :
    (Effect.frame (writeOpcode a)).Licensed c i := fun _ hk => by
  rw [eq_writeReg_of_decode (mapped_opcodes hm) ha hk]
  exact hf

theorem nop_licensed : (Effect.frame c.opcNop).Licensed c i :=
  licensed_of_decode (decodeOpcode_nop (mapped_opcodes hm)) trivial

theorem flushTx_licensed (h : mayTxFifo c i = true) : (Effect.frame c.opcFlushTx).Licensed c i :=
  licensed_of_decode (decodeOpcode_flushTx (mapped_opcodes hm)) h

theorem flushRx_licensed (h : mayRxFifo c i = true) : (Effect.frame c.opcFlushRx).Licensed c i :=
  licensed_of_decode (decodeOpcode_flushRx (mapped_opcodes hm)) h

theorem writeTx_licensed (h : mayTxFifo c i = true) : (Effect.frame c.opcWTxPayload).Licensed c i :=
  licensed_of_decode (decodeOpcode_txPayload (mapped_opcodes hm)) h

theorem readRx_licensed (h : mayRxFifo c i = true) : (Effect.frame c.opcRRxPayload).Licensed c i :=
  licensed_of_decode (decodeOpcode_rxPayload (mapped_opcodes hm)) h

theorem validated_licensed {a : Byte} (ha : a ≤ Config.regHi) (hf : a = c.regStatus → mayFlag c i = true) :
    ∀ e ∈ validatedEffects a, e.Licensed c i :=
  forall_validatedEffects.mpr ⟨write_licensed hm (le_of_le_regHi ha) hf, read_licensed hm (le_of_le_regHi ha), trivial⟩

/-- No register Init writes is the status register (10_state.md R28, 41_transceiver_config.md R161). -/
theorem status_not_configured : c.regStatus ∉ configuredRegisters c := by
  have hn := named_nodup hm
  simp only [Registers.named, List.nodup_cons, List.mem_cons, List.not_mem_nil, or_false, not_or] at hn
  simp only [configuredRegisters, List.mem_cons, List.not_mem_nil, or_false, not_or]
  tauto

theorem configured_licensed {a : Byte} (ha : a ∈ configuredRegisters c) : ∀ e ∈ validatedEffects a, e.Licensed c i :=
  validated_licensed hm (named_le hm (configured_named ha)) fun e => absurd (e ▸ ha) (status_not_configured hm)

theorem mode_licensed : ∀ e ∈ validatedEffects c.regConfig, e.Licensed c i :=
  configured_licensed hm (by simp [configuredRegisters])

theorem init_licensed : ∀ e ∈ initEffects c, e.Licensed c i :=
  forall_initEffects.mpr ⟨fun _ ha => ⟨read_licensed hm (le_of_le_regHi (baseline_le _ ha)), trivial⟩,
    fun _ ha => configured_licensed hm ha, trivial, trivial⟩

theorem clear_licensed (hf : mayFlag c i = true) : ∀ e ∈ clearEffects c, e.Licensed c i :=
  forall_clearEffects.mpr (write_licensed hm (le_of_le_regHi (named_le hm regStatus_named)) fun _ => hf)

theorem listen_licensed (hf : mayFlag c i = true) (ht : mayTxFifo c i = true) : ∀ e ∈ listenEffects c, e.Licensed c i :=
  forall_listenEffects.mpr ⟨clear_licensed hm hf, mode_licensed hm, hf, ht⟩

theorem stop_licensed (hr : mayRxFifo c i = true) : ∀ e ∈ stopEffects c, e.Licensed c i :=
  forall_stopEffects.mpr ⟨trivial, flushRx_licensed hm hr⟩

theorem start_licensed (hf : mayFlag c i = true) (ht : mayTxFifo c i = true) : ∀ e ∈ startEffects c, e.Licensed c i :=
  forall_startEffects.mpr ⟨clear_licensed hm hf, mode_licensed hm, flushTx_licensed hm ht, writeTx_licensed hm ht⟩

theorem end_licensed (hf : mayFlag c i = true) : ∀ e ∈ endEffects c, e.Licensed c i :=
  forall_endEffects.mpr ⟨nop_licensed hm, clear_licensed hm hf⟩

theorem send_licensed (hf : mayFlag c i = true) (ht : mayTxFifo c i = true) : ∀ e ∈ sendEffects c, e.Licensed c i :=
  forall_sendEffects.mpr ⟨start_licensed hm hf ht, forall_initiateEffects.mpr ⟨⟨hf, ht⟩, trivial, trivial⟩, end_licensed hm hf⟩

/-- No instruction performs an action the tables do not allow it. -/
theorem effects_licensed : ∀ e ∈ effects c i, e.Licensed c i := by
  have one : ∀ {e : Effect}, e.Licensed c i → ∀ e' ∈ [e], e'.Licensed c i := fun h => List.forall_mem_singleton.mpr h
  cases i with
  | rRegister addr _ => exact one (read_licensed hm (addr_le addr))
  | wRegister addr _ => exact one (write_licensed hm (addr_le addr) decide_eq_true)
  | rRxPayload | readFifo => exact one (readRx_licensed hm rfl)
  | wTxPayload | writeFifo => exact one (writeTx_licensed hm rfl)
  | busFlushTx | flushTx => exact one (flushTx_licensed hm rfl)
  | busFlushRx | flushRx => exact one (flushRx_licensed hm rfl)
  | busNop | pollReceived => exact one (nop_licensed hm)
  | readRegister a => exact forall_mem_guarded.mpr fun ha => one (read_licensed hm (le_of_le_regHi ha))
  | writeRegister a | writeRegisterBurst a =>
    exact forall_mem_guarded.mpr fun ha => one (write_licensed hm (le_of_le_regHi ha) decide_eq_true)
  | writeCommand d =>
    refine forall_mem_guarded.mpr fun hd => one ?_
    obtain rfl | rfl | rfl := hd
    · exact flushTx_licensed hm (decide_eq_true rfl)
    · exact flushRx_licensed hm (decide_eq_true rfl)
    · exact nop_licensed hm
  | writeValidated a => exact forall_mem_guarded.mpr fun ha => validated_licensed hm ha decide_eq_true
  | init => exact init_licensed hm
  | clearFlags => exact clear_licensed hm rfl
  | send => exact send_licensed hm rfl rfl
  | start => exact start_licensed hm rfl rfl
  | initiate => exact forall_initiateEffects.mpr ⟨⟨rfl, rfl⟩, trivial, trivial⟩
  | endSend => exact end_licensed hm rfl
  | setModeBit => exact mode_licensed hm
  | startListening => exact listen_licensed hm rfl rfl
  | stopListening => exact stop_licensed hm rfl
  | getMode => exact nofun
  | boot =>
    simp only [effects, List.forall_mem_append, List.forall_mem_cons]
    exact ⟨⟨⟨trivial, trivial, nofun⟩, init_licensed hm⟩, listen_licensed hm rfl rfl⟩
  | childTick =>
    simp only [effects, List.forall_mem_append, List.forall_mem_cons]
    exact ⟨⟨trivial, trivial, trivial, nofun⟩, send_licensed hm rfl rfl⟩
  | parentTick =>
    simp only [effects, List.forall_mem_append, List.forall_mem_cons]
    exact ⟨⟨⟨trivial, trivial, trivial, nop_licensed hm, readRx_licensed hm rfl, nofun⟩, stop_licensed hm rfl⟩,
      listen_licensed hm rfl rfl⟩

end

end Sys2Proof.Machine
end

section
/-! The frame of the flags and of each FIFO: a property of the device that all licensed actions keep. -/

namespace Sys2Proof.Machine

/-- Instructions keep a property of a still node's device that every action they are licensed for keeps. -/
theorem exec_still {P : Device → Prop} {i : Instr} {s t : State} (hm : s.cfg.mapped = true) (hp : DevicePart P)
    (hf : ∀ op, (Effect.frame op).Licensed s.cfg i → ∃ x, FramePart s.cfg op x P)
    (ht : Effect.ceHigh.Licensed s.cfg i → ∀ fresh d, P d → P (d.trigger s.cfg fresh)) (h : exec i s = .next t)
    (he : s.env = []) (hP : P s.dev) : P t.dev := by
  have neutral : Neutral s.cfg (Still s.cfg P) := ⟨fun _ hu => hu.1, fun _ _ hu => hu, fun _ _ hu => hu⟩
  refine (neutral.exec (fun e hmem => ?_) h ⟨rfl, he, hP⟩).2.2
  have hl := effects_licensed hm e hmem
  exact Effect.keeps_still hp (fun op ho => hf op (ho ▸ hl)) fun ho => ht (ho ▸ hl)

/-! The flags. -/

/-- No burst is in progress and the flags are those of `d`. -/
def FlagsOf (d e : Device) : Prop :=
  e.burst = none ∧ e.dataReceived = d.dataReceived ∧ e.dataSent = d.dataSent ∧ e.maxRetransmit = d.maxRetransmit

theorem flagsOf_part (d : Device) : DevicePart (FlagsOf d) :=
  ⟨fun _ _ h => h, fun _ _ hb h => absurd (hb.symm.trans h.1) nofun⟩

theorem flagsOf_frame (d : Device) {c : Cfg} {op : Byte} (h : decodeOpcode c.toOpcodes op ≠ some (.writeReg c.regStatus)) :
    FramePart c op (.writeReg c.regStatus) (FlagsOf d) where
  other := h
  exchange := by
    rintro draw out e - hf ⟨hb, h1, h2, h3⟩
    obtain ⟨k1, k2, k3⟩ := Device.exchange_flags c draw out e fun i hi => hf (by rw [hi]; rfl)
    exact ⟨Device.exchange_burst hb, k1.trans h1, k2.trans h2, k3.trans h3⟩
  commit := by
    intro e _ he
    unfold Device.commit Device.appendPayload
    repeat' split
    all_goals exact he

/-! The transmit FIFO. -/

/-- No burst is in progress and the transmit FIFO is that of `d`. -/
def TxFifoOf (d e : Device) : Prop := e.burst = none ∧ e.txFifo = d.txFifo

theorem txFifoOf_part (d : Device) : DevicePart (TxFifoOf d) :=
  ⟨fun _ _ h => h, fun _ _ hb h => absurd (hb.symm.trans h.1) nofun⟩

theorem Device.openFrame_txFifo {c : Cfg} {op : Byte} (h : decodeOpcode c.toOpcodes op ≠ some .flushTx) (d : Device) :
    (d.openFrame c op).txFifo = d.txFifo := by
  unfold Device.openFrame
  split
  case h_5 hk => exact absurd hk h
  all_goals rfl

theorem txFifoOf_frame (d : Device) {c : Cfg} {op : Byte} (hw : decodeOpcode c.toOpcodes op ≠ some .writeTx)
    (hx : decodeOpcode c.toOpcodes op ≠ some .flushTx) : FramePart c op .writeTx (TxFifoOf d) where
  other := hw
  exchange := by
    rintro draw out e ho - ⟨hb, hq⟩
    refine ⟨Device.exchange_burst hb, ?_⟩
    by_cases ha : e.frame = .awaitOpcode
    · rw [Device.exchange_open _ _ _ _ ha, ho ha, Device.openFrame_txFifo hx, hq]
    · exact (Device.exchange_data _ _ _ _ ha).1.trans hq
  commit := by
    intro e hf he
    unfold Device.commit
    split
    case h_1 => split <;> exact he
    case h_2 l hl => exact absurd (congrArg DevFrame.opcode hl) hf
    case h_3 => exact he

/-! The receive FIFO: a burst that ends does not touch it. -/

/-- The receive FIFO is that of `d`. -/
def RxFifoOf (d e : Device) : Prop := e.rxFifo = d.rxFifo

theorem rxFifoOf_part (d : Device) : DevicePart (RxFifoOf d) := ⟨fun _ _ h => h, fun _ _ _ h => h⟩

theorem Device.openFrame_rxFifo {c : Cfg} {op : Byte} (h : decodeOpcode c.toOpcodes op ≠ some .flushRx) (d : Device) :
    (d.openFrame c op).rxFifo = d.rxFifo := by
  unfold Device.openFrame
  split
  case h_6 hk => exact absurd hk h
  all_goals rfl

theorem rxFifoOf_frame (d : Device) {c : Cfg} {op : Byte} (hr : decodeOpcode c.toOpcodes op ≠ some .readRx)
    (hx : decodeOpcode c.toOpcodes op ≠ some .flushRx) : FramePart c op .readRx (RxFifoOf d) where
  other := hr
  exchange := by
    intro draw out e ho _ hq
    unfold RxFifoOf
    by_cases ha : e.frame = .awaitOpcode
    · rw [Device.exchange_open _ _ _ _ ha, ho ha, Device.openFrame_rxFifo hx, hq]
    · exact (Device.exchange_data _ _ _ _ ha).2.1.trans hq
  commit := by
    intro e hf he
    unfold Device.commit Device.appendPayload
    split
    case h_1 i hi => exact absurd (congrArg DevFrame.opcode hi) hf
    case h_2 => split_ifs <;> exact he
    case h_3 => exact he

theorem rxFifoOf_trigger (d : Device) (c : Cfg) (fresh : Nat → Byte) {e : Device} (h : RxFifoOf d e) :
    RxFifoOf d (e.trigger c fresh) := by
  rcases trigger_cases c fresh e with ht | ⟨_, _, _, _, _, _, ht⟩ <;> rw [ht] <;> exact h

end Sys2Proof.Machine

namespace Sys2Proof

open Sys2Proof.Machine

/-- Settles O59: a frame that changes a part of the device has an opcode its instruction is licensed for by the table of that
part, and so has the start of a burst for the flags and the transmit FIFO. -/
theorem flagAndFifoFrame : Obligations.FlagAndFifoFrame := by
  rintro i s t hm ⟨he, hb⟩ h
  refine ⟨fun hi => ?_, fun hi => ?_, fun hi => ?_⟩
  · have no : ¬ mayFlag s.cfg i = true := ne_true_of_eq_false hi
    exact (exec_still hm (flagsOf_part s.dev)
      (fun op hl => ⟨_, flagsOf_frame s.dev fun hk => no (hl _ hk rfl)⟩) (fun hl => absurd hl.1 no) h he
      ⟨hb, rfl, rfl, rfl⟩).2
  · have no : ¬ mayTxFifo s.cfg i = true := ne_true_of_eq_false hi
    exact (exec_still hm (txFifoOf_part s.dev)
      (fun op hl => ⟨_, txFifoOf_frame s.dev (fun hk => no (hl _ hk)) fun hk => no (hl _ hk)⟩) (fun hl => absurd hl.2 no) h he
      ⟨hb, rfl⟩).2
  · have no : ¬ mayRxFifo s.cfg i = true := ne_true_of_eq_false hi
    exact exec_still hm (rxFifoOf_part s.dev)
      (fun op hl => ⟨_, rxFifoOf_frame s.dev (fun hk => no (hl _ hk)) fun hk => no (hl _ hk)⟩)
      (fun _ fresh _ hd => rxFifoOf_trigger s.dev s.cfg fresh hd) h he (rfl : RxFifoOf s.dev s.dev)

end Sys2Proof
end

section
/-! The bytes of the device's registers, whatever the other agents do (20_memory.md R61, R67): only the data bytes of a write
frame of a register reach its cells, and the one data byte that clears flags reaches none. -/

namespace Sys2Proof.Machine

/-! A cell through a frame. -/

/-- A node with configuration `c` whose device holds `x` as byte `j` of register `a`. -/
def CellIs (c : Cfg) (a : Byte) (j : Nat) (x : Option RegCell) (s : State) : Prop := s.cfg = c ∧ s.dev.cell c a j = x

/-- And its device, if it is there, is at a place of a frame that meets `F`. -/
def CellIsIn (c : Cfg) (a : Byte) (j : Nat) (x : Option RegCell) (F : DevFrame → Prop) (s : State) : Prop :=
  CellIs c a j x s ∧ (c.present = true → F s.dev.frame)

/-- The computation leaves the cell as it is, whether it returns or waits. -/
abbrev KeepsCell {α : Type} (c : Cfg) (a : Byte) (j : Nat) (x : Option RegCell) (m : Eng α) : Prop :=
  Keep (CellIs c a j x) (fun _ => CellIs c a j x) m

section

variable {c : Cfg} {a : Byte} {j : Nat} {x : Option RegCell}

theorem cellIs_gap {s : State} (h : CellIs c a j x s) : CellIs c a j x (gap s) :=
  ⟨(gap_cfg s).trans h.1, (gap_cell s c a j).trans h.2⟩

theorem cellIs_neutral (c : Cfg) (a : Byte) (j : Nat) (x : Option RegCell) : Neutral c (CellIs c a j x) :=
  ⟨fun _ h => h.1, fun _ _ h => h, fun _ _ h => h⟩

/-- A cell is kept through a frame whose data bytes, at the places `F 0`, `F 1`, … the opcode leads to, keep it. -/
theorem cellIs_protocol {op : Byte} {limit : Nat} {F : Nat → DevFrame → Prop}
    (first : ∀ d : Device, F 0 (d.openFrame c op).frame)
    (next : ∀ k < limit, ∀ draw out (d : Device), F k d.frame →
      F (k + 1) (d.exchange c draw out).2.frame ∧ (d.exchange c draw out).2.cell c a j = d.cell c a j) :
    Protocol op limit (CellIs c a j x) (CellIsIn c a j x (· = .awaitOpcode)) (fun k => CellIsIn c a j x (F k))
      fun _ => CellIs c a j x where
  opened := by
    rintro s ⟨rfl, rfl⟩
    exact ⟨⟨opened_cfg s, opened_cell s s.cfg a j⟩, opened_frame⟩
  opcode := by
    rintro s shown ⟨⟨rfl, rfl⟩, hf⟩
    refine ⟨⟨sent_cfg shown op s, sent_cell (fun hp b i => by rw [hf hp]; nofun) s.cfg a j⟩, fun hp => ?_⟩
    show F 0 (sent shown op s).dev.frame
    rw [sent_dev hp, Device.exchange_open _ _ _ _ ((gap_frame s).trans (hf hp))]
    exact first _
  opcodeStuck := fun s h _ => cellIs_gap h.1
  data := by
    rintro s shown out k hk ⟨⟨rfl, rfl⟩, hf⟩
    show CellIsIn _ _ _ _ _ (sent shown out s)
    cases hp : s.cfg.present with
    | false =>
      refine ⟨⟨sent_cfg shown out s, ?_⟩, fun h => absurd (hp.symm.trans h) nofun⟩
      rw [(sent_bus shown out s).absent hp]
    | true =>
      obtain ⟨hF, hcell⟩ := next k hk (gap s).draw out (gap s).dev ((gap_frame s).symm ▸ hf hp)
      rw [← sent_dev (shown := shown) hp] at hF hcell
      exact ⟨⟨sent_cfg shown out s, hcell.trans (gap_cell s s.cfg a j)⟩, fun _ => hF⟩
  dataStuck := fun s _ _ _ h _ => cellIs_gap h.1
  noted := fun _ _ _ h => h
  closed := by
    rintro s k - ⟨⟨rfl, rfl⟩, -⟩
    exact ⟨closed_cfg s, closed_cell s s.cfg a j⟩

/-- The one-byte write of the status register clears flags and stores nothing (45_device_interpreter.md R256). A second byte
would unsettle the register, so that this holds of one byte only. -/
theorem statusFrame_keeps_cell (hm : c.mapped = true) (d : Byte) : KeepsCell c a j x (writeRegisterBody c.regStatus d) := by
  refine writeRegisterBody_keeps d (cellIs_protocol (limit := 1) (F := fun k f => f = .regWrite c.regStatus k) ?_ ?_)
    (Nat.le_refl 1)
  · intro d
    rw [Device.openFrame, decodeOpcode_write _ (named_le hm regStatus_named)]
    rfl
  · rintro k hk draw out d hf
    obtain rfl : k = 0 := by omega
    rw [Device.exchange, hf]
    exact ⟨rfl, (Device.cell_inFrame ..).trans (cell_store_status hm out d c a j)⟩

theorem clearFlags_keeps_cell (hm : c.mapped = true) (m : Byte) : KeepsCell c a j x (clearFlagsBody c m) :=
  clearFlagsBody_keeps (cellIs_neutral c a j x).blind (statusFrame_keeps_cell hm)

/-! Actions that send a register no byte. -/

/-- Actions of this kind send no data byte to register `a`. -/
def Effect.Avoids (c : Cfg) (a : Byte) : Effect → Prop
  | .frame op => decodeOpcode c.toOpcodes op ≠ some (.writeReg a)
  | _ => True

/-- What sends register `a` no byte leaves its cells alone. -/
theorem Effect.Avoids.keeps {e : Effect} (h : e.Avoids c a) : e.Keeps (CellIs c a j x) := by
  cases e with
  | frame op =>
    exact fun limit => ⟨_, _, cellIs_protocol (F := fun _ => DevFrame.Past (.writeReg a)) (Device.openFrame_past h)
      fun _ _ _ _ d hd =>
        ⟨Device.exchange_past hd, Device.cell_exchange _ _ _ _ _ (fun i hi => hd.2 (congrArg DevFrame.opcode hi)) j⟩⟩
  | ceHigh => exact fun s h => ⟨(lifted_cfg s).trans h.1, (lifted_cell s c a j).trans h.2⟩
  | ceLow => exact fun s h => cellIs_gap h
  | wait => exact fun _ s h => cellIs_gap h
  | board => exact fun s h => ⟨h.1, (Device.cell_inFrame ..).trans h.2⟩
  | cache | tickdiv | countdown => exact fun _ _ h => h
  | initialise | arm | alert | sample => exact fun _ h => h

theorem initiate_avoids : ∀ e ∈ initiateEffects, e.Avoids c a := forall_initiateEffects.mpr ⟨trivial, trivial, trivial⟩

section

variable (hm : c.mapped = true)

include hm

theorem read_avoids {b : Byte} (hb : b ≤ 0x1F) : (Effect.frame (readOpcode b)).Avoids c a :=
  fun h => nomatch eq_readReg_of_decode (mapped_opcodes hm) hb h

theorem write_avoids {b : Byte} (hb : b ≤ 0x1F) (hne : b ≠ a) : (Effect.frame (writeOpcode b)).Avoids c a :=
  fun h => hne (Opcode.writeReg.inj (eq_writeReg_of_decode (mapped_opcodes hm) hb h)).symm

/-- The fixed opcodes lie above the register opcodes (30_encoding.md R93). -/
theorem command_avoids {op : Byte} (h : op ∈ c.toOpcodes.all) : (Effect.frame op).Avoids c a := by
  show decodeOpcode c.toOpcodes op ≠ _
  rw [decodeOpcode_high _ (opcode_high (mapped_opcodes hm) h)]
  split_ifs <;> nofun

theorem validated_avoids {b : Byte} (hb : b ≤ Config.regHi) (hne : b ≠ a) : ∀ e ∈ validatedEffects b, e.Avoids c a :=
  forall_validatedEffects.mpr ⟨write_avoids hm (le_of_le_regHi hb) hne, read_avoids hm (le_of_le_regHi hb), trivial⟩

theorem mode_avoids (ha : a ≠ c.regConfig) : ∀ e ∈ validatedEffects c.regConfig, e.Avoids c a :=
  validated_avoids hm (named_le hm regConfig_named) ha.symm

theorem init_avoids (ha : a ∉ configuredRegisters c) : ∀ e ∈ initEffects c, e.Avoids c a :=
  forall_initEffects.mpr ⟨fun _ hb => ⟨read_avoids hm (le_of_le_regHi (baseline_le _ hb)), trivial⟩,
    fun _ hb => validated_avoids hm (named_le hm (configured_named hb)) fun e => ha (e ▸ hb), trivial, trivial⟩

theorem stop_avoids : ∀ e ∈ stopEffects c, e.Avoids c a :=
  forall_stopEffects.mpr ⟨trivial, command_avoids hm (by simp [Opcodes.all])⟩

end

/-! Operations that clear flags on their way: their status frames are of one byte, which no list of actions says. -/

section

variable (hm : c.mapped = true)

include hm

theorem end_keeps_cell : KeepsCell c a j x (endBody c) :=
  have hb := (cellIs_neutral c a j x).blind
  endBody_keeps hb (commandFrame_keeps (command_avoids hm (by simp [Opcodes.all])).keeps) (clearFlags_keeps_cell hm _)
    (fun _ h => h) hb

variable (ha : a ≠ c.regConfig)

include ha

theorem setModeBit_keeps_cell (m : Byte) : KeepsCell c a j x (setModeBitBody c m) :=
  mode_keeps (cellIs_neutral c a j x).blind (fun e he => (mode_avoids hm ha e he).keeps) m

theorem listen_keeps_cell : KeepsCell c a j x (startListeningBody c) :=
  startListeningBody_keeps (cellIs_neutral c a j x).blind (clearFlags_keeps_cell hm _) (setModeBit_keeps_cell hm ha _)
    (Effect.Avoids.keeps (e := .ceHigh) trivial)

theorem start_keeps_cell (n : Byte) (buf : List Byte) : KeepsCell c a j x (startBody c n buf) :=
  startBody_keeps (cellIs_neutral c a j x).blind (clearFlags_keeps_cell hm _) (setModeBit_keeps_cell hm ha _)
    (commandFrame_keeps (command_avoids hm (by simp [Opcodes.all])).keeps)
    (loadFrame_keeps (command_avoids hm (by simp [Opcodes.all])).keeps n buf)

theorem send_keeps_cell (n : Byte) (buf : List Byte) : KeepsCell c a j x (sendBody c n buf) :=
  sendBody_keeps (cellIs_neutral c a j x).blind (start_keeps_cell hm ha n buf)
    (initiate_keeps fun e he => (initiate_avoids (c := c) (a := a) e he).keeps) (end_keeps_cell hm)

theorem childTick_keeps_cell : KeepsCell c a j x (childTickBody c) :=
  childTickBody_keeps (cellIs_neutral c a j x).blind (fun _ _ h => h) (fun _ h => h) (send_keeps_cell hm ha _)
    fun _ _ h => h

theorem parentTick_keeps_cell : KeepsCell c a j x (parentTickBody c) := by
  have hb := (cellIs_neutral c a j x).blind
  have command : ∀ {op}, op ∈ c.toOpcodes.all → (Effect.frame op).Keeps (CellIs c a j x) :=
    fun h => (command_avoids hm h).keeps
  refine parentTickBody_keeps hb (countTick_keeps hb (fun _ _ h => h) fun _ _ h => h)
    (pollReceivedBody_keeps hb (commandFrame_keeps (command (by simp [Opcodes.all])))) ?_
  exact takePayload_keeps hb (fetchFrame_keeps (command (by simp [Opcodes.all])) _)
    (stop_keeps hb fun e he => (stop_avoids hm e he).keeps) (listen_keeps_cell hm ha) (fun _ _ h => h) fun _ _ h => h

end

theorem boot_keeps_cell (hm : c.mapped = true) (ha : a ∉ configuredRegisters c) : KeepsCell c a j x (bootBody c) := by
  have hb := (cellIs_neutral c a j x).blind
  have hne : a ≠ c.regConfig := fun e => ha (by simp [e, configuredRegisters])
  exact bootBody_keeps hb (fun _ h => Effect.Avoids.keeps (e := .board) trivial _ h)
    (init_keeps hb fun e he => (init_avoids hm ha e he).keeps) (listen_keeps_cell hm hne) fun _ h => h

end

/-! Instructions. -/

/-- An instruction that may not store in register `a` leaves its cells alone: either every action on its list avoids `a`, or it
clears flags on its way. -/
theorem exec_keeps_cell {i : Instr} {s t : State} {a : Byte} {j : Nat} {x : Option RegCell} (hm : s.cfg.mapped = true)
    (hi : mayStore s.cfg a i = false) (h : exec i s = .next t) (hs : CellIs s.cfg a j x s) : CellIs s.cfg a j x t := by
  have k := cellIs_neutral s.cfg a j x
  have avoid : (∀ e ∈ effects s.cfg i, e.Avoids s.cfg a) → CellIs s.cfg a j x t := fun he =>
    k.exec (fun e hmem => (he e hmem).keeps) h hs
  have one : ∀ {e : Effect}, e.Avoids s.cfg a → ∀ e' ∈ [e], e'.Avoids s.cfg a :=
    fun he => List.forall_mem_singleton.mpr he
  cases i with
  | rRegister addr => exact avoid (one (read_avoids hm (addr_le addr)))
  | wRegister addr => exact avoid (one (write_avoids hm (addr_le addr) (of_decide_eq_false hi)))
  | rRxPayload | wTxPayload | busFlushTx | busFlushRx | busNop | writeFifo | readFifo | flushTx | flushRx | pollReceived =>
    exact avoid (one (command_avoids hm (by simp [Opcodes.all])))
  | readRegister b => exact avoid (forall_mem_guarded.mpr fun hb => one (read_avoids hm (le_of_le_regHi hb)))
  | writeRegister b | writeRegisterBurst b =>
    exact avoid (forall_mem_guarded.mpr fun hb => one (write_avoids hm (le_of_le_regHi hb) (of_decide_eq_false hi)))
  | writeCommand d =>
    refine avoid (forall_mem_guarded.mpr fun hd => one (command_avoids hm ?_))
    obtain rfl | rfl | rfl := hd <;> simp [Opcodes.all]
  | writeValidated b => exact avoid (forall_mem_guarded.mpr fun hb => validated_avoids hm hb (of_decide_eq_false hi))
  | init => exact avoid (init_avoids hm (of_decide_eq_false hi))
  | initiate => exact avoid initiate_avoids
  | setModeBit => exact avoid (mode_avoids hm (of_decide_eq_false hi))
  | stopListening => exact avoid (stop_avoids hm)
  | getMode => exact avoid nofun
  | clearFlags d => exact k.serve h hs (reply_keeps (clearFlags_keeps_cell hm d))
  | endSend => exact k.serve h hs (reply_keeps (end_keeps_cell hm))
  | startListening => exact k.serve h hs (Keep.guarded (listen_keeps_cell hm (of_decide_eq_false hi)))
  | start n buf => exact k.serve h hs (Keep.guarded (reply_keeps (start_keeps_cell hm (of_decide_eq_false hi) n buf)))
  | send n buf => exact k.serve h hs (Keep.guarded (send_keeps_cell hm (of_decide_eq_false hi) n buf))
  | childTick => exact k.serve h hs (reply_keeps (childTick_keeps_cell hm (of_decide_eq_false hi)))
  | parentTick => exact k.serve h hs (reply_keeps (parentTick_keeps_cell hm (of_decide_eq_false hi)))
  | boot => exact k.serve h hs (reply_keeps (boot_keeps_cell hm (of_decide_eq_false hi)))

end Sys2Proof.Machine

namespace Sys2Proof

open Sys2Proof.Machine

/-- Settles O57: an instruction either sends register `a` no data byte or, clearing flags, one byte to the status register,
which stores nothing. -/
theorem deviceRegisterFrame : Obligations.DeviceRegisterFrame := fun _ _ _ _ _ hm h hi =>
  (exec_keeps_cell hm hi h ⟨rfl, rfl⟩).2

end Sys2Proof
end

section
/-! The decoder inverted (30_encoding.md R91, R93, R94, R96, R100, R101): the byte each opcode of a frame is written with, the
codes of the request table, and what both say of whole frames and requests. -/

namespace Sys2Proof.Laws.RoundTrip

/-- Every instruction comes back from its encoding. -/
theorem every : ∀ i : Instr, Statement i
  | .rRegister addr data => rRegister addr data
  | .wRegister addr data => wRegister addr data
  | .rRxPayload data => rRxPayload data
  | .wTxPayload data => wTxPayload data
  | .busFlushTx data => busFlushTx data
  | .busFlushRx data => busFlushRx data
  | .busNop data => busNop data
  | .readRegister a => readRegister a
  | .writeRegister a d => writeRegister a d
  | .writeCommand d => writeCommand d
  | .writeRegisterBurst a n buf => writeRegisterBurst a n buf
  | .writeValidated a d => writeValidated a d
  | .init => init
  | .writeFifo n buf => writeFifo n buf
  | .readFifo n => readFifo n
  | .flushTx => flushTx
  | .flushRx => flushRx
  | .clearFlags d => clearFlags d
  | .send n buf => send n buf
  | .start n buf => start n buf
  | .initiate => initiate
  | .endSend => endSend
  | .setModeBit d => setModeBit d
  | .startListening => startListening
  | .stopListening => stopListening
  | .getMode => getMode
  | .pollReceived => pollReceived
  | .boot => boot
  | .childTick => childTick
  | .parentTick => parentTick

end Sys2Proof.Laws.RoundTrip

namespace Sys2Proof

open Sys2Proof.Machine

/-- Settles O1: constructor by constructor, each instruction comes back from its encoding. -/
theorem decodeEncodeRoundTrip : Obligations.DecodeEncodeRoundTrip := fun o i ho hi => Laws.RoundTrip.every i o ho hi

/-! Frames. -/

/-- The first byte of a frame of this opcode (30_encoding.md R91, R93). -/
def Opcode.byte (o : Opcodes) : Opcode → Byte
  | .readReg a => readOpcode a
  | .writeReg a => writeOpcode a
  | .readRx => o.opcRRxPayload
  | .writeTx => o.opcWTxPayload
  | .flushTx => o.opcFlushTx
  | .flushRx => o.opcFlushRx
  | .nop => o.opcNop

/-- A register opcode names a register of the map (30_encoding.md R91). -/
def Opcode.InRange : Opcode → Prop
  | .readReg a => a ≤ Config.regHi
  | .writeReg a => a ≤ Config.regHi
  | .readRx => True
  | .writeTx => True
  | .flushTx => True
  | .flushRx => True
  | .nop => True

theorem readOpcode_addressField : ∀ b : Byte, b >>> Config.addrBits = 0b000 → readOpcode (addressField b) = b := by decide

/-- An opcode is decoded from the byte it is written with, if its register exists. -/
theorem decodeOpcode_byte {o : Opcodes} (ho : o.ok = true) {k : Opcode} (hk : k.InRange) :
    decodeOpcode o (k.byte o) = some k := by
  cases k with
  | readReg a => exact decodeOpcode_read o hk
  | writeReg a => exact decodeOpcode_write o hk
  | readRx => exact decodeOpcode_rxPayload ho
  | writeTx => exact decodeOpcode_txPayload ho
  | flushTx => exact decodeOpcode_flushTx ho
  | flushRx => exact decodeOpcode_flushRx ho
  | nop => exact decodeOpcode_nop ho

/-- And from no other byte (30_encoding.md R93: no ambiguity). -/
theorem byte_of_decodeOpcode {o : Opcodes} {b : Byte} {k : Opcode} (h : decodeOpcode o b = some k) :
    k.InRange ∧ k.byte o = b := by
  unfold decodeOpcode at h
  split_ifs at h with hr hw h1 h2 h3 h4 h5 <;> cases h
  · exact ⟨hr.2, readOpcode_addressField b hr.1⟩
  · exact ⟨hw.2, (write_opcode_back b hw.1).symm⟩
  · exact ⟨trivial, h1.symm⟩
  · exact ⟨trivial, h2.symm⟩
  · exact ⟨trivial, h3.symm⟩
  · exact ⟨trivial, h4.symm⟩
  · exact ⟨trivial, h5.symm⟩

/-- The address of a register, through the five bits of a bus instruction. -/
theorem address_five_bits : ∀ {a : Byte}, a ≤ Config.regHi →
    busAddressOk (a.setWidth Config.addrBits) = true ∧ (a.setWidth Config.addrBits).setWidth 8 = a := by decide

theorem Opcode.wellFormed_instr {k : Opcode} (hk : k.InRange) {data : List Byte} (hd : frameLengthOk data = true) :
    (k.instr data).wellFormed = true := by
  cases k with
  | readReg a => exact Bool.and_eq_true_iff.mpr ⟨(address_five_bits hk).1, hd⟩
  | writeReg a => exact Bool.and_eq_true_iff.mpr ⟨(address_five_bits hk).1, hd⟩
  | readRx => exact hd
  | writeTx => exact hd
  | flushTx => exact hd
  | flushRx => exact hd
  | nop => exact hd

theorem Opcode.encode_instr (o : Opcodes) {k : Opcode} (hk : k.InRange) (data : List Byte) :
    encode o (k.instr data) = .frame (k.byte o :: data) := by
  cases k with
  | readReg a => rw [Opcode.instr, encode, (address_five_bits hk).2, Opcode.byte]
  | writeReg a => rw [Opcode.instr, encode, (address_five_bits hk).2, Opcode.byte]
  | readRx => rfl
  | writeTx => rfl
  | flushTx => rfl
  | flushRx => rfl
  | nop => rfl

/-- A frame that decodes is the first byte of its opcode and a legal number of data bytes. -/
theorem frame_of_decode {o : Opcodes} {bytes : List Byte} {i : Instr} (h : decode o (.frame bytes) = .ok i) :
    ∃ (k : Opcode) (data : List Byte), k.InRange ∧ frameLengthOk data = true ∧ bytes = k.byte o :: data ∧ i = k.instr data := by
  cases bytes with
  | nil => cases h
  | cons op data =>
    rw [decode, decodeFrame] at h
    cases hk : decodeOpcode o op with
    | none => rw [hk] at h; cases h
    | some k =>
      rw [hk] at h
      obtain ⟨hr, hb⟩ := byte_of_decodeOpcode hk
      by_cases hl : data.length ≤ Config.fifoMax
      · cases (if_pos hl).symm.trans h
        exact ⟨k, data, hr, decide_eq_true hl, by rw [hb], rfl⟩
      · cases (if_neg hl).symm.trans h

/-! The two register ranges of the opcode map (30_encoding.md R96). -/

theorem readOpcode_self : ∀ {op : Byte}, op ≤ 0x1D → op ≤ Config.regHi ∧ readOpcode op = op := by decide

theorem writeOpcode_sub_base : ∀ {op : Byte}, 0x20#8 ≤ op ∧ op ≤ 0x3D →
    op - 0x20 ≤ Config.regHi ∧ writeOpcode (op - 0x20) = op := by decide

theorem register_byte_ranges : ∀ {a : Byte}, a ≤ Config.regHi →
    readOpcode a ≤ 0x1D ∧ 0x20#8 ≤ writeOpcode a ∧ writeOpcode a ≤ 0x3D := by decide

/-- A first byte in neither register range and none of the five fixed opcodes opens nothing. -/
theorem decodeOpcode_unmapped {o : Opcodes} {op : Byte} (hr : 0x1D#8 < op) (hw : ¬ (0x20#8 ≤ op ∧ op ≤ 0x3D))
    (hf : op ∉ o.all) : decodeOpcode o op = none := by
  refine Option.eq_none_iff_forall_ne_some.mpr fun k hk => ?_
  obtain ⟨ha, rfl⟩ := byte_of_decodeOpcode hk
  cases k with
  | readReg a => exact BitVec.not_lt.mpr (register_byte_ranges ha).1 hr
  | writeReg a => exact hw (register_byte_ranges ha).2
  | readRx => exact hf (by simp [Opcodes.all, Opcode.byte])
  | writeTx => exact hf (by simp [Opcodes.all, Opcode.byte])
  | flushTx => exact hf (by simp [Opcodes.all, Opcode.byte])
  | flushRx => exact hf (by simp [Opcodes.all, Opcode.byte])
  | nop => exact hf (by simp [Opcodes.all, Opcode.byte])

/-! Requests. -/

/-- The operation codes of the table (30_encoding.md R101). -/
def requestCodes : List Byte :=
  [0x01, 0x02, 0x03, 0x04, 0x05, 0x06, 0x07, 0x08, 0x09, 0x0A, 0x0B, 0x0C, 0x0D, 0x0E, 0x0F, 0x10, 0x11, 0x12, 0x13, 0x14,
    0x20, 0x21, 0x22]

theorem mem_requestCodes : ∀ {op : Byte}, (0x01#8 ≤ op ∧ op ≤ 0x14) ∨ (0x20#8 ≤ op ∧ op ≤ 0x22) → op ∈ requestCodes := by decide

theorem not_mem_requestCodes : ∀ {op : Byte}, op = 0x00 ∨ (0x15#8 ≤ op ∧ op ≤ 0x1F) ∨ 0x23#8 ≤ op → op ∉ requestCodes := by
  decide

/-- A code of the table is an operation, whatever the other fields. -/
theorem decodeOperation_known {op : Byte} (h : op ∈ requestCodes) (a d n : Byte) (buf : List Byte) :
    ∃ i, decodeOperation op a d n buf = .ok i := by
  fin_cases h <;> exact ⟨_, rfl⟩

/-- Any other code is rejected by name (30_encoding.md R103). -/
theorem decodeOperation_unknown {op : Byte} (h : op ∉ requestCodes) (a d n : Byte) (buf : List Byte) :
    decodeOperation op a d n buf = .error (.unknownOp op) := by
  unfold decodeOperation
  split
  case h_24 => rfl
  all_goals exact absurd (by decide) h

theorem bufferOk_requestBuffer (bytes : List Byte) : bufferOk (requestBuffer bytes) = true :=
  decide_eq_true (by simp [requestBuffer])

/-- What a request decodes to is well formed: its buffer is as wide as the port (30_encoding.md R100). -/
theorem wellFormed_of_decodeOperation {op a d n : Byte} {buf : List Byte} {i : Instr} (hb : bufferOk buf = true)
    (h : decodeOperation op a d n buf = .ok i) : i.wellFormed = true := by
  unfold decodeOperation at h
  split at h <;> cases h <;> simp only [Instr.wellFormed, hb]

/-! The statements. -/

/-- Settles O2: a frame that decodes is the byte of its opcode before its data; a request's buffer is cut to the port. -/
theorem decodedIsWellFormedAndUnambiguous : Obligations.DecodedIsWellFormedAndUnambiguous := by
  refine fun o _ => ⟨fun b i h => ?_, fun bytes i h => ?_⟩
  · cases b with
    | request bytes => exact wellFormed_of_decodeOperation (bufferOk_requestBuffer _) h
    | frame bytes =>
      obtain ⟨k, data, hk, hd, rfl, rfl⟩ := frame_of_decode h
      exact Opcode.wellFormed_instr hk hd
  · obtain ⟨k, data, hk, -, rfl, rfl⟩ := frame_of_decode h
    exact Opcode.encode_instr o hk data

/-- Settles O3: the decoder evaluated on each word. -/
theorem decodeSpecWords : Obligations.DecodeSpecWords := by
  unfold Obligations.DecodeSpecWords
  decide

/-- Settles O4: each first byte of the map is the byte of its opcode, and the byte of an opcode is in the map. -/
theorem firstByteMap : Obligations.FirstByteMap := by
  intro o op data ho hl
  have frame {k : Opcode} (hk : k.InRange) (hb : k.byte o = op) : decode o (.frame (op :: data)) = .ok (k.instr data) :=
    Laws.RoundTrip.decode_frame (hb ▸ decodeOpcode_byte ho hk) (decide_eq_true hl)
  refine ⟨fun h => ?_, fun h => ?_, fun h => ?_, fun h => ?_, fun h => ?_, fun h => ?_, fun h => ?_,
    fun hr hw h1 h2 h3 h4 h5 => ?_⟩
  · exact frame (k := .readReg op) (readOpcode_self h).1 (readOpcode_self h).2
  · exact frame (k := .writeReg (op - 0x20)) (writeOpcode_sub_base h).1 (writeOpcode_sub_base h).2
  · exact frame (k := .readRx) trivial h.symm
  · exact frame (k := .writeTx) trivial h.symm
  · exact frame (k := .flushTx) trivial h.symm
  · exact frame (k := .flushRx) trivial h.symm
  · exact frame (k := .nop) trivial h.symm
  · have hf : op ∉ o.all := by simp [Opcodes.all, h1, h2, h3, h4, h5]
    rw [decode, decodeFrame, decodeOpcode_unmapped hr hw hf]

end Sys2Proof
end

section
/-! One step of a node that is not in device fault (30_encoding.md R100, R103): what stands on the request port is executed or
rejected; with nothing there an operation under way goes on. -/

namespace Sys2Proof.Machine

variable {s : State}

/-- What stands on the port is fetched, decoded and executed. -/
theorem step_inbox (hf : s.dev.fault = none) {b : Inbound} (hb : s.inbox = some b) :
    step s = execute b (fetched s) (decode s.cfg.toOpcodes b) := by
  rw [step, hf, hb, serveInbox]

/-- An operation between two of its actions performs the next (00_scope.md R12). -/
theorem step_between (hf : s.dev.fault = none) (hb : s.inbox = none) {p : Position} {callers : List Position}
    (hs : s.seq = p :: callers) (hp : p.polls = false) : step s = .next (act s) := by
  rw [step, hf, hb, serveInbox, resume, hs, resumeAt, hp, if_neg Bool.false_ne_true]

end Sys2Proof.Machine

namespace Sys2Proof

open Sys2Proof.Machine

theorem decode_of_decodeTableWord {nbits w : Nat} {i : Instr} (h : decodeTableWord nbits w = some i) :
    decode .family (tableInbound nbits w) = .ok i := by
  unfold decodeTableWord at h
  cases hd : decode .family (tableInbound nbits w) with
  | ok j => rw [hd] at h; cases h; rfl
  | error e => rw [hd] at h; cases h

/-- Settles O5: the code decides what the request decodes to; a busy engine refuses every instruction. -/
theorem unknownCodesAreRefused : Obligations.UnknownCodesAreRefused := by
  refine ⟨fun s op rest hop hf hb => ?_, fun s op rest hop hs hf hb => ?_⟩
  · have hd : decode s.cfg.toOpcodes (.request (op :: rest)) = .error (.unknownOp op) :=
      decodeOperation_unknown (not_mem_requestCodes hop) _ _ _ _
    rw [step_inbox hf hb, hd]; rfl
  · obtain ⟨i, hi⟩ : ∃ i, decode s.cfg.toOpcodes (.request (op :: rest)) = .ok i :=
      decodeOperation_known (mem_requestCodes hop) _ _ _ _
    rw [step_inbox hf hb, hi]
    exact exec_busy i (s := fetched s) hs hf

/-- Settles O6: the cases of `step`; the word of the opcode table stands on the port of an idle node. -/
theorem stepRunsDecodedInstruction : Obligations.StepRunsDecodedInstruction := by
  have runs {s : State} {b : Inbound} {i : Instr} (hf : s.dev.fault = none) (hb : s.inbox = some b)
      (hd : decode s.cfg.toOpcodes b = .ok i) : step s = exec i (fetched s) := by
    rw [step_inbox hf hb, hd, execute]
  refine ⟨fun s b i hf hb hd => runs hf hb hd, fun s nbits w i hc hw => ?_, fun s p callers hf hb hs => step_between hf hb hs⟩
  exact runs (s := s.withFetchWord nbits w) rfl rfl (hc ▸ decode_of_decodeTableWord hw)

end Sys2Proof
end
section
/-! Where the sequencer and the bus stand between two single steps of the engine (10_state.md R24, 40_register_interface.md R121):
the operations stacked call one another, and the trace so far and the actions of the frame still to come are framed. -/

namespace Sys2Proof.Machine

/-! The stack. -/

/-- How deep the calls of an operation can go. -/
def Task.rank : Task → Nat
  | .frame _ => 0
  | .op i =>
    match i with
    | .writeValidated _ _ | .flushTx | .flushRx | .clearFlags _ | .pollReceived => 1
    | .init | .setModeBit _ | .endSend | .stopListening => 2
    | .start _ _ | .startListening => 3
    | .send _ _ | .boot | .parentTick => 4
    | .childTick => 5
    | _ => 0

theorem Task.rank_le (t : Task) : t.rank ≤ 5 := by
  cases t with
  | frame bytes => exact Nat.zero_le 5
  | op i => cases i <;> exact Nat.le_of_ble_eq_true rfl

/-- Action `k` of `t` may be a call of `t'`: End is called by Send alone, Send by the Child's tick alone. -/
structure Calls (t : Task) (k : Nat) (t' : Task) : Prop where
  rank : t'.rank < t.rank
  operation : ∃ i, t' = .op i
  endSend : t' = .op .endSend → ∃ n buf, t = .op (.send n buf) ∧ k = 2
  send : ∀ n buf, t' = .op (.send n buf) → t = .op .childTick ∧ k = 2

/-- A position and the one that called it, which stands at the call with no result pending. -/
structure CalledBy (callee caller : Position) : Prop extends Calls caller.task caller.k callee.task where
  pending : caller.loc.result = none

/-- The stack of an engine: each position is called by the next. -/
abbrev Stacked (q : List Position) : Prop := q.IsChain CalledBy

/-- The innermost position may move within its operation. -/
theorem Stacked.replace {p p' : Position} {cs : List Position} (h : Stacked (p :: cs)) (ht : p'.task = p.task) :
    Stacked (p' :: cs) := by
  cases cs with
  | nil => exact .singleton _
  | cons p1 cs =>
    obtain ⟨hc, hr⟩ := List.isChain_cons_cons.mp h
    exact List.isChain_cons_cons.mpr ⟨⟨ht ▸ hc.toCalls, hc.pending⟩, hr⟩

/-- A call. -/
theorem Stacked.push {p : Position} {cs : List Position} {t : Task} {l : Locals} (h : Stacked (p :: cs))
    (hp : p.loc.result = none) (ht : Calls p.task p.k t) : Stacked (⟨t, 0, l⟩ :: p :: cs) :=
  List.isChain_cons_cons.mpr ⟨⟨ht, hp⟩, h⟩

/-- The ranks grow along the stack, so that it is at most six deep (10_state.md R24). -/
theorem Stacked.length_le {q : List Position} (h : Stacked q) : q.length ≤ 6 := by
  have all : ∀ p cs, Stacked (p :: cs) → cs.length + p.task.rank ≤ 5 := by
    intro p cs
    induction cs generalizing p with
    | nil => intro _; simpa using p.task.rank_le
    | cons p1 cs ih =>
      intro h
      obtain ⟨hc, hr⟩ := List.isChain_cons_cons.mp h
      have h1 := hc.rank
      have h2 := ih p1 hr
      simp only [List.length_cons]
      omega
  cases q with
  | nil => exact Nat.zero_le _
  | cons p cs => have := all p cs h; simp only [List.length_cons]; omega

/-- Nothing calls the Child's tick, so it is the outermost operation. -/
theorem Stacked.childTick_last {p : Position} {cs : List Position} (h : Stacked (p :: cs)) (hp : p.task = .op .childTick) :
    cs = [] := by
  cases cs with
  | nil => rfl
  | cons p1 cs =>
    have h1 := (List.isChain_cons_cons.mp h).1.rank
    have h2 := p1.task.rank_le
    rw [hp] at h1
    exact absurd (Nat.lt_of_lt_of_le h1 h2) (Nat.lt_irrefl 5)

/-- The stacks in which End polls (42_packet_io.md R193). -/
theorem Stacked.polling {p : Position} {cs : List Position} (h : Stacked (p :: cs)) (hp : p.polls = true) :
    PollingStack (p :: cs) := by
  obtain ⟨ht, hk, hl⟩ := of_decide_eq_true hp
  cases cs with
  | nil => exact ⟨.inl (by simp [ht]), by simp [hk], by simp [hl]⟩
  | cons p1 cs =>
    obtain ⟨hc, hr⟩ := List.isChain_cons_cons.mp h
    obtain ⟨n, buf, ht1, hk1⟩ := hc.endSend ht
    have hl1 := hc.pending
    cases cs with
    | nil => exact ⟨.inr (.inl ⟨n, buf, by simp [ht, ht1]⟩), by simp [hk, hk1], by simp [hl, hl1]⟩
    | cons p2 cs =>
      obtain ⟨hc2, hr2⟩ := List.isChain_cons_cons.mp hr
      obtain ⟨ht2, hk2⟩ := hc2.send n buf ht1
      have hl2 := hc2.pending
      obtain rfl := Stacked.childTick_last hr2 ht2
      exact ⟨.inr (.inr ⟨n, buf, by simp [ht, ht1, ht2]⟩), by simp [hk, hk1, hk2], by simp [hl, hl1, hl2]⟩

/-- A stack in which End polls is one of an engine. -/
theorem PollingStack.stacked {q : List Position} (h : PollingStack q) : Stacked q := by
  obtain ⟨ht, hk, hl⟩ := h
  have sends {p p1 : Position} {n : Byte} {buf : List Byte} (h0 : p.task = .op .endSend) (h1 : p1.task = .op (.send n buf))
      (hk1 : p1.k = 2) (hl1 : p1.loc.result = none) : CalledBy p p1 :=
    ⟨⟨by rw [h0, h1]; exact (by decide : 2 < 4), ⟨_, h0⟩, fun _ => ⟨n, buf, h1, hk1⟩, fun _ _ e => nomatch h0.symm.trans e⟩, hl1⟩
  have ticks {p1 p2 : Position} {n : Byte} {buf : List Byte} (h1 : p1.task = .op (.send n buf)) (h2 : p2.task = .op .childTick)
      (hk2 : p2.k = 2) (hl2 : p2.loc.result = none) : CalledBy p1 p2 :=
    ⟨⟨by rw [h1, h2]; exact (by decide : 4 < 5), ⟨_, h1⟩, fun e => (nomatch h1.symm.trans e), fun _ _ _ => ⟨h2, hk2⟩⟩, hl2⟩
  match q with
  | [] => exact .nil
  | [p] => exact .singleton p
  | [p, p1] =>
    simp only [PollingTasks, List.map_cons, List.map_nil, List.cons.injEq, reduceCtorEq, and_false, and_true, false_or, or_false,
      exists_false] at ht
    obtain ⟨n, buf, h0, h1⟩ := ht
    simp at hk hl
    exact List.isChain_cons_cons.mpr ⟨sends h0 h1 hk.2 hl.2, .singleton _⟩
  | p :: p1 :: p2 :: cs =>
    simp only [PollingTasks, List.map_cons, List.cons.injEq, reduceCtorEq, and_false, false_or, exists_false] at ht
    obtain ⟨n, buf, h0, h1, h2, hcs⟩ := ht
    obtain rfl := List.map_eq_nil_iff.mp hcs
    simp at hk hl
    exact List.isChain_cons_cons.mpr ⟨sends h0 h1 hk.2.1 hl.2.1, List.isChain_cons_cons.mpr ⟨ticks h1 h2 hk.2.2 hl.2.2, .singleton _⟩⟩

end Sys2Proof.Machine
end

section
/-! The framing of the trace (40_register_interface.md R121), single step by single step. -/

namespace Sys2Proof.Machine

/-- The trace is framed so far, and bus-select is asserted in a frame and nowhere else. -/
def AtLevel (v : FrameLevel) (s : State) : Prop := framing s.trace = some v ∧ (v = .closed ↔ s.csn = .deasserted)

/-! What is still to come of a frame. -/

/-- The actions of an operation that is one frame. -/
def busActions (c : Cfg) : Task → List Action
  | .frame bytes => rawActions bytes
  | .op (.readRegister a) => readActions a
  | .op (.writeRegister a d) => writeActions a d
  | .op (.writeCommand d) => frameActions true d []
  | .op (.writeRegisterBurst a n buf) => frameActions false (writeOpcode a) (payload n buf)
  | .op (.writeFifo n buf) => fifoActions n false c.opcWTxPayload (payload n buf)
  | .op (.readFifo n) => fifoActions n true c.opcRRxPayload (List.replicate n.toNat Config.dummy)
  | .op _ => []

/-- What an action of a frame does to the framing; the other actions are none of a frame. -/
def Action.busStep : Action → FrameLevel → Option FrameLevel
  | .csnAssert, v => frameStep .csnAssert v
  | .csnDeassert, v => frameStep .csnDeassert v
  | .xchg _ out, v => frameStep (.xchg out none) v
  | .xchgKept _ out, v => frameStep (.xchg out none) v
  | .ceHigh, _ => none
  | .ceLow, _ => none
  | .wait _, _ => none
  | .internal _, _ => none
  | .sample, _ => none

/-- The actions end the frame that stands at `v`. -/
def Completes : FrameLevel → List Action → Prop
  | v, [] => v = .closed
  | v, a :: l => ∃ v', a.busStep v = some v' ∧ Completes v' l

theorem completes_data (shown : Bool) (l : List Byte) :
    Completes .sending (l.map (.xchgKept shown) ++ [.csnDeassert]) := by
  induction l with
  | nil => exact ⟨_, rfl, rfl⟩
  | cons b l ih => exact ⟨_, rfl, ih⟩

theorem completes_frame (shown : Bool) (op : Byte) (l : List Byte) : Completes .closed (frameActions shown op l) :=
  ⟨_, rfl, _, rfl, completes_data shown l⟩

theorem completes_fifo (n : Byte) (shown : Bool) (op : Byte) (l : List Byte) :
    Completes .closed (fifoActions n shown op l) := by
  unfold fifoActions
  split
  · exact rfl
  · exact completes_frame shown op l

/-- A raw frame of at least one byte. -/
theorem completes_raw (op : Byte) (data : List Byte) : Completes .closed (rawActions (op :: data)) :=
  ⟨_, rfl, _, rfl, completes_data true data⟩

/-- Every frame of the engine's own operations. -/
theorem completes_operation (c : Cfg) (i : Instr) : Completes .closed (busActions c (.op i)) := by
  cases i with
  | readRegister a => exact ⟨_, rfl, _, rfl, _, rfl, _, rfl, rfl⟩
  | writeRegister a d => exact ⟨_, rfl, _, rfl, _, rfl, _, rfl, rfl⟩
  | writeCommand d => exact completes_frame true d []
  | writeRegisterBurst a n buf => exact completes_frame _ _ _
  | writeFifo n buf => exact completes_fifo _ _ _ _
  | readFifo n => exact completes_fifo _ _ _ _
  | _ => exact rfl

/-- An operation that calls others is no frame. -/
theorem busActions_of_rank (c : Cfg) {t : Task} (h : 0 < t.rank) : busActions c t = [] := by
  cases t with
  | frame bytes => cases h
  | op i =>
    cases i with
    | readRegister | writeRegister | writeCommand | writeRegisterBurst | writeFifo | readFifo => cases h
    | _ => rfl

/-! What comes next at a position. -/

/-- An action outside the frames: it leaves a closed bus closed. -/
def Action.Aside : Action → Prop
  | .internal f => ∀ s, (f s).cfg = s.cfg ∧ (f s).seq = s.seq ∧ (AtLevel .closed s → AtLevel .closed (f s))
  | .ceHigh => True
  | .ceLow => True
  | .wait _ => True
  | .sample => True
  | .csnAssert => False
  | .csnDeassert => False
  | .xchg _ _ => False
  | .xchgKept _ _ => False

/-- What comes next goes with the place, action `k` of `t`: the next action of a frame; anything else only outside one. -/
def Next.Fits (c : Cfg) (t : Task) (k : Nat) : Next → Prop
  | .act a => (busActions c t).drop k = a :: (busActions c t).drop (k + 1) ∨ (a.Aside ∧ busActions c t = [])
  | .enter t' => Calls t k t'
  | .goTo _ => busActions c t = []
  | .leave _ => (busActions c t).drop k = []

theorem actionAt_fits {c : Cfg} {t : Task} {l : List Action} (h : busActions c t = l) (r : Reply) (k : Nat) :
    (actionAt l r k).Fits c t k := by
  subst h
  unfold actionAt
  cases hk : (busActions c t)[k]? with
  | none => exact List.drop_eq_nil_of_le (List.getElem?_eq_none_iff.mp hk)
  | some a =>
    obtain ⟨hlt, rfl⟩ := List.getElem?_eq_some_iff.mp hk
    exact .inl (List.drop_eq_getElem_cons hlt)

/-- An access to the engine's or the host's state alone. -/
theorem aside_of_eq {f : State → State} (h : ∀ s, (f s).cfg = s.cfg ∧ (f s).seq = s.seq ∧ (f s).trace = s.trace ∧ (f s).csn = s.csn) :
    (Action.internal f).Aside := fun s => by
  obtain ⟨hc, hs, ht, hn⟩ := h s
  exact ⟨hc, hs, fun hl => by rw [AtLevel, ht, hn]; exact hl⟩

theorem alerted_aside (p : AlertPattern) : (Action.internal (State.alerted p)).Aside := fun s =>
  ⟨rfl, rfl, fun h => ⟨by show (framing s.trace).bind _ = _; rw [h.1]; rfl, h.2⟩⟩

theorem boardInitialised_aside : (Action.internal State.boardInitialised).Aside := fun s =>
  ⟨rfl, rfl, fun h => ⟨by show (framing s.trace).bind _ = _; rw [h.1]; rfl, iff_of_true rfl rfl⟩⟩

theorem evaluateNext_fits {c : Cfg} {t : Task} (h : busActions c t = []) (v : Reading) (k : Nat) :
    (evaluateNext v).Fits c t k := by
  unfold evaluateNext
  split
  · exact .inr ⟨alerted_aside _, h⟩
  · show List.drop k _ = []
    rw [h]; exact List.drop_nil

section

variable {c : Cfg} {i i' : Instr} {k : Nat}

theorem Next.Fits.leave (h : busActions c (.op i) = []) (r : Reply) : (Next.leave r).Fits c (.op i) k := by
  show List.drop k _ = []
  rw [h]; exact List.drop_nil

/-- A call, by the ranks of the two operations. -/
theorem Next.Fits.call (hr : (Task.op i').rank < (Task.op i).rank) (he : i' ≠ .endSend)
    (hs : ∀ n buf, i' ≠ .send n buf) : (Next.enter (.op i')).Fits c (.op i) k :=
  ⟨hr, ⟨_, rfl⟩, fun e => absurd (Task.op.inj e) he, fun n buf e => absurd (Task.op.inj e) (hs n buf)⟩

theorem Next.Fits.quiet {f : State → State} (h : busActions c (.op i) = [])
    (hf : ∀ s, (f s).cfg = s.cfg ∧ (f s).seq = s.seq ∧ (f s).trace = s.trace ∧ (f s).csn = s.csn) :
    (Next.act (.internal f)).Fits c (.op i) k := .inr ⟨aside_of_eq hf, h⟩

end

theorem initNext_fits (c : Cfg) (rc : Byte) (j k : Nat) : (initNext c rc j).Fits c (.op .init) k := by
  unfold initNext
  split
  case h_2 => exact .inr ⟨trivial, rfl⟩
  case h_8 => exact .call (by decide : 0 < 2) nofun nofun
  case h_10 => exact .quiet rfl fun _ => ⟨rfl, rfl, rfl, rfl⟩
  case h_11 => exact .leave rfl _
  all_goals exact .call (by decide : 1 < 2) nofun nofun

/-- The plan of every operation (10_state.md R24). -/
theorem plan_fits (s : State) (p : Position) : (plan s p).Fits s.cfg p.task p.k := by
  obtain ⟨t, k, l⟩ := p
  rcases t with i | bytes
  case frame => exact actionAt_fits rfl _ _
  cases i with
  | rRegister | wRegister | rRxPayload | wTxPayload | busFlushTx | busFlushRx | busNop | getMode => exact .leave rfl _
  | readRegister | writeRegister | writeCommand | writeRegisterBurst | writeFifo | readFifo => exact actionAt_fits rfl _ _
  | writeValidated a d =>
    simp only [plan]
    split
    · exact .call (by decide : 0 < 1) nofun nofun
    · exact .call (by decide : 0 < 1) nofun nofun
    · split
      · exact .quiet rfl fun _ => ⟨rfl, rfl, rfl, rfl⟩
      · exact .leave rfl _
    · exact .leave rfl _
  | init =>
    simp only [plan]
    split
    · split
      · exact .call (by decide : 0 < 2) nofun nofun
      · exact .quiet rfl fun _ => ⟨rfl, rfl, rfl, rfl⟩
    · exact initNext_fits _ _ _ _
  | flushTx | flushRx | clearFlags | pollReceived =>
    simp only [plan]
    split
    · exact .call (by decide : 0 < 1) nofun nofun
    · exact .leave rfl _
  | setModeBit m =>
    simp only [plan]
    split
    · exact .call (by decide : 1 < 2) nofun nofun
    · exact .leave rfl _
  | stopListening =>
    simp only [plan]
    split
    · exact .inr ⟨trivial, rfl⟩
    · exact .call (by decide : 1 < 2) nofun nofun
    · exact .leave rfl _
  | initiate =>
    match k with
    | 0 | 1 | 2 => exact .inr ⟨trivial, rfl⟩
    | k + 3 => exact .leave rfl _
  | endSend =>
    simp only [plan]
    split
    · exact .call (by decide : 0 < 2) nofun nofun
    · split
      · exact .call (by decide : 1 < 2) nofun nofun
      · exact rfl
    · exact .leave rfl _
  | start n buf =>
    simp only [plan]
    split
    · exact .call (by decide : 1 < 3) nofun nofun
    · exact .call (by decide : 2 < 3) nofun nofun
    · split
      · exact .leave rfl _
      · exact .call (by decide : 1 < 3) nofun nofun
    · exact .call (by decide : 0 < 3) nofun nofun
    · exact .leave rfl _
  | startListening =>
    simp only [plan]
    split
    · split
      · exact .leave rfl _
      · exact .call (by decide : 1 < 3) nofun nofun
    · exact .call (by decide : 2 < 3) nofun nofun
    · split
      · exact .leave rfl _
      · exact .inr ⟨trivial, rfl⟩
    · exact .leave rfl _
  | send n buf =>
    simp only [plan]
    split
    · split
      · exact .leave rfl _
      · exact .call (by decide : 3 < 4) nofun nofun
    · split
      · exact .leave rfl _
      · exact .call (by decide : 0 < 4) nofun nofun
    · exact ⟨(by decide : 2 < 4), ⟨_, rfl⟩, fun _ => ⟨n, buf, rfl, rfl⟩, nofun⟩
    · exact .leave rfl _
  | boot =>
    simp only [plan]
    split
    · exact .inr ⟨boardInitialised_aside, rfl⟩
    · exact .call (by decide : 2 < 4) nofun nofun
    · split
      · split
        · exact .call (by decide : 3 < 4) nofun nofun
        · exact .quiet rfl fun _ => ⟨rfl, rfl, rfl, rfl⟩
        · exact .leave rfl _
      · split
        · exact .quiet rfl fun _ => ⟨rfl, rfl, rfl, rfl⟩
        · exact .leave rfl _
  | childTick =>
    simp only [plan]
    split
    · exact .quiet rfl fun _ => ⟨rfl, rfl, rfl, rfl⟩
    · split
      · exact .inr ⟨trivial, rfl⟩
      · exact .leave rfl _
    · exact ⟨(by decide : 4 < 5), ⟨_, rfl⟩, nofun, fun _ _ _ => ⟨rfl, rfl⟩⟩
    · exact evaluateNext_fits rfl _ _
    · exact .leave rfl _
  | parentTick =>
    simp only [plan]
    split
    · exact .quiet rfl fun _ => ⟨rfl, rfl, rfl, rfl⟩
    · split
      · exact .inr ⟨alerted_aside _, rfl⟩
      · exact rfl
    · exact .quiet rfl fun _ => ⟨rfl, rfl, rfl, rfl⟩
    · exact .call (by decide : 1 < 4) nofun nofun
    · split
      · exact .leave rfl _
      · exact .call (by decide : 0 < 4) nofun nofun
    · exact .call (by decide : 2 < 4) nofun nofun
    · exact .call (by decide : 3 < 4) nofun nofun
    · exact .quiet rfl fun _ => ⟨rfl, rfl, rfl, rfl⟩
    · exact evaluateNext_fits rfl _ _
    · exact .leave rfl _

/-! One action. -/

section

variable {s u : State} {v v' : FrameLevel} {p : Position} {cs : List Position}

/-- The innermost operation has gone on by one action. -/
def Onto (p : Position) (cs : List Position) (u : State) : Prop := ∃ l, u.seq = ⟨p.task, p.k + 1, l⟩ :: cs

theorem AtLevel.afterGap (h : AtLevel v s) : AtLevel v (gap s) := by
  rw [AtLevel, gap_trace, gap_csn]; exact h

/-- One more token. -/
theorem AtLevel.next {e : TraceEvent} (h : AtLevel v s) (he : frameStep e v = some v') (ht : u.trace = e :: s.trace)
    (hc : v' = .closed ↔ u.csn = .deasserted) : AtLevel v' u :=
  ⟨by rw [ht]; show (framing s.trace).bind _ = _; rw [h.1]; exact he, hc⟩

/-- What an exchange leaves: one more token, or, when it hangs, none. -/
theorem AtLevel.exchange {out : Byte} (h : AtLevel v s) (he : frameStep (.xchg out none) v = some v') (shown : Bool) :
    AtLevel v' ((gap s).exchanged shown out) := by
  have hx : v' ≠ .closed ∧ v ≠ .closed ∧ ∀ b, frameStep (.xchg out b) v = some v' := by
    cases v <;> cases he <;> exact ⟨nofun, nofun, fun _ => rfl⟩
  exact h.afterGap.next (hx.2.2 _) rfl (iff_of_false hx.1 fun e => hx.2.1 (h.2.mpr ((gap_csn s).symm.trans e)))

theorem advance_onto (hs : s.seq = p :: cs) : advance (gap s).seq = ⟨p.task, p.k + 1, p.loc⟩ :: cs := by
  rw [gap_seq, hs]; rfl

/-- An action of a frame, done or waiting in an exchange. -/
theorem Action.run_bus {a : Action} (ha : a.busStep v = some v') (hl : AtLevel v s) (hs : s.seq = p :: cs) :
    (AtLevel v' (after (a.run.run s)) ∧ Onto p cs (after (a.run.run s))) ∨
      (AtLevel v (after (a.run.run s)) ∧ (after (a.run.run s)).seq = s.seq) := by
  cases a with
  | csnAssert =>
    have hv : v' ≠ .closed := by cases v <;> cases ha; nofun
    exact .inl ⟨hl.afterGap.next ha rfl (iff_of_false hv nofun), p.loc, advance_onto hs⟩
  | csnDeassert =>
    have hv : v' = .closed := by cases v <;> cases ha; rfl
    exact .inl ⟨hl.afterGap.next ha rfl (iff_of_true hv rfl), p.loc, advance_onto hs⟩
  | xchg shown out =>
    simp only [Action.run, EStateM.run_bind, xchg_run_eq]
    by_cases h0 : s.port.left = some 0
    · rw [if_pos h0]; exact .inr ⟨hl.afterGap, gap_seq s⟩
    · rw [if_neg h0]; exact .inl ⟨hl.exchange ha shown, p.loc, advance_onto hs⟩
  | xchgKept shown out =>
    simp only [Action.run, Machine.xchgKept, EStateM.run_bind, xchg_run_eq]
    by_cases h0 : s.port.left = some 0
    · rw [if_pos h0]; exact .inr ⟨hl.afterGap, gap_seq s⟩
    · rw [if_neg h0]
      exact .inl ⟨hl.exchange ha shown, Locals.keep shown _ p.loc, congrArg (mapTop _) (advance_onto hs)⟩
  | ceHigh | ceLow | wait | internal | sample => cases ha

/-- Any other action, outside a frame. -/
theorem Action.run_aside {a : Action} (ha : a.Aside) (hl : AtLevel .closed s) (hs : s.seq = p :: cs) :
    AtLevel .closed (after (a.run.run s)) ∧ Onto p cs (after (a.run.run s)) := by
  have hn : s.csn = .deasserted := hl.2.mp rfl
  cases a with
  | csnAssert | csnDeassert | xchg | xchgKept => cases ha
  | ceHigh =>
    have hr : (gap s).raised.seq = s.seq := (raised_seq_cfg _).1.trans (gap_seq s)
    refine ⟨hl.afterGap.next (e := .ceHigh) rfl ?_ (iff_of_true rfl ?_), p.loc, ?_⟩
    · exact congrArg _ (State.raised_trace _)
    · exact (State.raised_csn _).trans ((gap_csn s).trans hn)
    · show advance (gap s).raised.seq = _
      rw [hr, hs]; rfl
  | ceLow => exact ⟨hl.afterGap.next (e := .ceLow) rfl rfl (iff_of_true rfl ((gap_csn s).trans hn)), p.loc, advance_onto hs⟩
  | wait us => exact ⟨hl.afterGap.next (e := .wait us) rfl rfl (iff_of_true rfl ((gap_csn s).trans hn)), p.loc, advance_onto hs⟩
  | internal f =>
    obtain ⟨-, hq, hf⟩ := ha s
    exact ⟨hf hl, p.loc, by show advance (f s).seq = _; rw [hq, hs]; rfl⟩
  | sample => exact ⟨hl, { p.loc with reading := s.nextReading }, by show mapTop _ (advance s.seq) = _; rw [hs]; rfl⟩

end

/-! One step. -/

/-- The actions of its frame the innermost operation has still to perform. -/
def ahead (c : Cfg) : List Position → List Action
  | [] => []
  | p :: _ => (busActions c p.task).drop p.k

/-- What every single step of the engine keeps: the stack is one of calls, and the trace is framed so far and will be when the
frame under way is over. -/
structure Poised (s : State) : Prop where
  stacked : Stacked s.seq
  framed : ∃ v, AtLevel v s ∧ Completes v (ahead s.cfg s.seq)

/-- An engine that accepts an operation. -/
theorem Poised.accepted {t : Task} {s : State} (hs : s.seq = []) (hl : AtLevel .closed s)
    (ht : Completes .closed (busActions s.cfg t)) : Poised (accepted t s) where
  stacked := by show Stacked (_ :: s.seq); rw [hs]; exact .singleton _
  framed := ⟨.closed, hl, ht⟩

/-- Outside a frame bus-select is deasserted. -/
theorem Poised.closed {s : State} (h : Poised s) (ha : ahead s.cfg s.seq = []) : AtLevel .closed s := by
  obtain ⟨v, hl, hc⟩ := h.framed
  rw [ha] at hc
  exact (show v = .closed from hc) ▸ hl

/-- An engine outside every frame. -/
theorem Poised.outside {s : State} (hq : Stacked s.seq) (hl : AtLevel .closed s)
    (hb : ∀ p cs, s.seq = p :: cs → busActions s.cfg p.task = []) : Poised s := by
  refine ⟨hq, .closed, hl, ?_⟩
  cases hs : s.seq with
  | nil => rfl
  | cons p cs => rw [ahead, hb p cs hs, List.drop_nil]; rfl

/-- An action performed. -/
theorem Poised.action {s : State} {a : Action} {p : Position} {cs : List Position} (h : Poised s) (hs : s.seq = p :: cs)
    (ha : (Next.act a).Fits s.cfg p.task p.k) (hc : (after (a.run.run s)).cfg = s.cfg) : Poised (after (a.run.run s)) := by
  have stack : ∀ {l}, Stacked (⟨p.task, p.k + 1, l⟩ :: cs) := (hs ▸ h.stacked).replace rfl
  obtain ha | ⟨ha, hb⟩ := ha
  · have hd : ahead s.cfg s.seq = a :: (busActions s.cfg p.task).drop (p.k + 1) := by rw [hs]; exact ha
    obtain ⟨v, hl, hv⟩ := h.framed
    obtain ⟨v', hv', hrest⟩ := hd ▸ hv
    obtain ⟨hl', l, hs'⟩ | ⟨hl', hs'⟩ := Action.run_bus hv' hl hs
    · exact ⟨hs' ▸ stack, v', hl', by rw [hc, hs']; exact hrest⟩
    · exact ⟨hs' ▸ h.stacked, v, hl', by rw [hc, hs']; exact hv⟩
  · obtain ⟨hl', l, hs'⟩ := Action.run_aside ha (h.closed (by rw [hs, ahead, hb, List.drop_nil])) hs
    refine .outside (hs' ▸ stack) hl' fun p' cs' he => ?_
    obtain ⟨rfl, rfl⟩ := List.cons.inj (hs'.symm.trans he)
    rw [hc]; exact hb

/-- An operation returned. -/
theorem Poised.returned {s : State} {p : Position} {cs : List Position} (h : Poised s) (hs : s.seq = p :: cs)
    (hp : ahead s.cfg s.seq = []) (r : Reply) : Poised (s.leaving.deliver r) := by
  have stack : Stacked (p :: cs) := hs ▸ h.stacked
  cases cs with
  | nil =>
    have hd : s.leaving.deliver r = finishOperation r (s.standing []) := deliver_last r hs
    rw [hd]
    exact .outside .nil (h.closed hp) nofun
  | cons p1 cs =>
    obtain ⟨hcall, hrest⟩ := List.isChain_cons_cons.mp stack
    have hd : s.leaving.deliver r = s.standing (⟨p1.task, p1.k + 1, { p1.loc with result := some r }⟩ :: cs) :=
      deliver_caller r hs
    rw [hd]
    refine .outside (Stacked.replace hrest rfl) (h.closed hp) fun p' cs' he => ?_
    obtain ⟨rfl, rfl⟩ := List.cons.inj he
    exact busActions_of_rank _ (Nat.zero_lt_of_lt hcall.rank)

/-- What comes next at the innermost position `p` is done. -/
theorem Poised.performed {s : State} {n : Next} {p : Position} {cs : List Position} (h : Poised s) (hs : s.seq = p :: cs)
    (hr : p.loc.result = none) (hn : n.Fits s.cfg p.task p.k) (hc : (perform s n).cfg = s.cfg) : Poised (perform s n) := by
  cases n with
  | act a => exact h.action hs hn hc
  | leave r => exact h.returned hs (by rw [hs]; exact hn) r
  | enter t =>
    have hb : ahead s.cfg s.seq = [] := by rw [hs, ahead, busActions_of_rank _ (Nat.zero_lt_of_lt hn.rank), List.drop_nil]
    obtain ⟨i, rfl⟩ := hn.operation
    refine ⟨?_, .closed, h.closed hb, completes_operation _ i⟩
    show Stacked (_ :: s.seq)
    rw [hs]; exact (hs ▸ h.stacked).push hr hn
  | goTo k =>
    have hs' : (s.atAction k).seq = { p with k := k } :: cs := by show mapTop _ s.seq = _; rw [hs]; rfl
    refine .outside (s := s.atAction k) (by rw [hs']; exact (hs ▸ h.stacked).replace rfl)
      (h.closed (by rw [hs, ahead, hn, List.drop_nil])) fun p' cs' he => ?_
    obtain ⟨rfl, rfl⟩ := List.cons.inj (hs'.symm.trans he)
    exact hn

/-- A single step of the engine (10_state.md R24): the result of the last sub-operation is taken in first. -/
theorem Poised.act {s : State} (h : Poised s) : Poised (act s) := by
  have hc := (act_mild s).1
  unfold Machine.act at hc ⊢
  cases hs : s.seq with
  | nil => exact h
  | cons p cs =>
    rw [hs] at hc
    have htask : p.taken.task = p.task ∧ p.taken.k = p.k ∧ p.taken.loc.result = none := by
      unfold Position.taken
      cases hr : p.loc.result with
      | none => exact ⟨rfl, rfl, hr⟩
      | some r => exact ⟨rfl, rfl, rfl⟩
    obtain ⟨ht, hk, hr⟩ := htask
    have hs' : (s.withTop Position.taken).seq = p.taken :: cs := by show mapTop _ s.seq = _; rw [hs]; rfl
    have h' : Poised (s.withTop Position.taken) := by
      obtain ⟨v, hl, hv⟩ := h.framed
      refine ⟨hs' ▸ (hs ▸ h.stacked).replace ht, v, hl, ?_⟩
      rw [hs', ahead, ht, hk]
      rw [hs] at hv
      exact hv
    exact h'.performed hs' hr (plan_fits _ _) hc

/-- Any number of them. -/
theorem Poised.acts {s : State} (h : Poised s) (n : Nat) : Poised (acts n s) := by
  induction n generalizing s with
  | zero => exact h
  | succ n ih => exact ih h.act

end Sys2Proof.Machine
end

section
/-! The device's side of the invariant: bus-select as the device sees it, the FIFOs, the frames in flight and in a burst
(45_device_interpreter.md R251, 10_state.md R42, R46). Every action keeps it, in whatever order actions come. -/

namespace Sys2Proof.Machine

/-! The device. -/

/-- FIFOs within their depths and a whole frame in a burst. -/
structure Device.Ok (c : Cfg) (d : Device) : Prop where
  txFifo : FifoOk c.txDepth d.txFifo
  rxFifo : FifoOk c.rxDepth d.rxFifo
  burst : ∀ b, d.burst = some b → b.frame.ok = true

theorem FifoOk.tail {n : Nat} {q : List (List Byte)} (h : FifoOk n q) : FifoOk n q.tail :=
  ⟨by rw [List.length_tail]; exact (Nat.sub_le _ _).trans h.1, fun l hl => h.2 l (List.mem_of_mem_tail hl)⟩

theorem FifoOk.append {n : Nat} {q : List (List Byte)} {l : List Byte} (h : FifoOk n q) (hn : q.length < n)
    (hl : 1 ≤ l.length ∧ l.length ≤ Config.fifoMax) : FifoOk n (q ++ [l]) := by
  refine ⟨by rw [List.length_append]; exact hn, fun m hm => ?_⟩
  rcases List.mem_append.mp hm with hm | hm
  · exact h.2 m hm
  · exact List.mem_singleton.mp hm ▸ hl

theorem AirFrame.ok_iff {f : AirFrame} :
    f.ok = true ↔ f.addr.length = Config.addrLen ∧ 1 ≤ f.payload.length ∧ f.payload.length ≤ Config.fifoMax := by
  simp [AirFrame.ok, and_assoc]

namespace Device.Ok

variable {c c' : Cfg} {d : Device}

/-- The frame state and the registers do not matter to it. -/
theorem congr {e : Device} (h : d.Ok c) (h1 : e.txFifo = d.txFifo) (h2 : e.rxFifo = d.rxFifo) (h3 : e.burst = d.burst) :
    e.Ok c := ⟨h1 ▸ h.txFifo, h2 ▸ h.rxFifo, h3 ▸ h.burst⟩

theorem openFrame (h : d.Ok c) (op : Byte) : (d.openFrame c' op).Ok c := by
  unfold Device.openFrame
  split
  case h_5 =>
    refine ⟨fifoOk_nil _, h.rxFifo, fun b hb => ?_⟩
    obtain ⟨b', hb', rfl⟩ := Option.map_eq_some_iff.mp hb
    exact h.burst b' hb'
  case h_6 => exact ⟨h.txFifo, fifoOk_nil _, h.burst⟩
  all_goals exact h.congr rfl rfl rfl

theorem exchange (h : d.Ok c) (draw out : Byte) : (d.exchange c' draw out).2.Ok c := by
  by_cases hf : d.frame = .awaitOpcode
  · rw [Device.exchange_open _ _ _ _ hf]; exact h.openFrame out
  · obtain ⟨h1, h2, h3, -⟩ := Device.exchange_data c' draw out d hf
    exact h.congr h1 h2 h3

/-- A payload enters the FIFO when it is of 1 to 32 bytes and there is room (45_device_interpreter.md R258). -/
theorem deselect (h : d.Ok c) : (d.deselect c).Ok c := by
  have hd : (d.commit c).Ok c := by
    unfold Device.commit
    split
    case h_1 i hf =>
      split_ifs
      · exact h
      · exact ⟨h.txFifo, h.rxFifo.tail, h.burst⟩
    case h_2 l hf =>
      unfold Device.appendPayload
      split_ifs with h1 h2 h3
      · exact h
      · exact ⟨h.txFifo.append h3 ⟨List.length_pos_iff.mpr h1, h2⟩, h.rxFifo, h.burst⟩
      · exact h
      · exact h.congr rfl rfl rfl
    case h_3 => exact h
  exact hd.congr rfl rfl rfl

/-- A burst takes the head of the FIFO (R269). -/
theorem trigger (h : d.Ok c) (fresh : Nat → Byte) : (d.trigger c' fresh).Ok c := by
  rcases trigger_cases c' fresh d with he | ⟨head, rest, hq, -, -, -, he⟩ <;> rw [he]
  · exact h
  · refine ⟨h.txFifo, h.rxFifo, fun b hb => ?_⟩
    cases hb
    exact AirFrame.ok_iff.mpr ⟨by simp [Device.latched, Device.sampleAddress], h.txFifo.2 head (hq ▸ List.mem_cons_self)⟩

theorem finishBurst (h : d.Ok c) (b : Burst) : (d.finishBurst b).Ok c := by
  refine ⟨?_, h.rxFifo, nofun⟩
  show FifoOk _ (if b.held then d.txFifo.tail else d.txFifo)
  split_ifs
  · exact h.txFifo.tail
  · exact h.txFifo

theorem receive (h : d.Ok c) (fresh : Nat → Byte) (ce : Ce) {f : AirFrame} (hf : f.ok = true) (aw : Byte) :
    (d.receive c fresh ce f aw).Ok c := by
  rcases receive_cases c fresh ce f aw d with he | ⟨-, -, hn, he⟩ <;> rw [he]
  · exact h
  · exact ⟨h.txFifo, h.rxFifo.append hn (AirFrame.ok_iff.mp hf).2, h.burst⟩

end Device.Ok

theorem Device.openFrame_open (c : Cfg) (op : Byte) (d : Device) : (d.openFrame c op).frame ≠ .none := by
  unfold Device.openFrame
  split <;> exact nofun

/-- An exchange neither opens nor closes a frame (45_device_interpreter.md R251). -/
theorem Device.exchange_frame_none (c : Cfg) (draw out : Byte) (d : Device) :
    (d.exchange c draw out).2.frame = .none ↔ d.frame = .none := by
  rw [Device.exchange_frame]
  cases d.frame with
  | awaitOpcode => exact iff_of_false (d.openFrame_open c out) nofun
  | none => exact Iff.rfl
  | regRead | regWrite | rxRead | txWrite | done => exact iff_of_false nofun nofun

theorem Device.trigger_frame (c : Cfg) (fresh : Nat → Byte) (d : Device) : (d.trigger c fresh).frame = d.frame := by
  rcases trigger_cases c fresh d with h | ⟨_, _, _, _, _, _, h⟩ <;> rw [h]

/-! The node. -/

/-- The device, the line of bus-select as it sees it, and the air, of a node with configuration `c`. -/
structure Carried (c : Cfg) (s : State) : Prop where
  cfg : s.cfg = c
  select : c.present = true → (s.dev.frame = .none ↔ s.csn = .deasserted)
  device : s.dev.Ok c
  flying : ∀ f ∈ s.air, f.ok = true

namespace Carried

variable {c : Cfg} {s : State}

/-- What else a node holds does not matter to it. -/
theorem congr {t : State} (h : Carried c s) (hc : t.cfg = s.cfg := by rfl) (hn : t.csn = s.csn := by rfl)
    (hd : t.dev = s.dev := by rfl) (ha : t.air = s.air := by rfl) : Carried c t :=
  ⟨hc.trans h.cfg, by rw [hd, hn]; exact h.select, hd ▸ h.device, ha ▸ h.flying⟩

theorem neutral (c : Cfg) : Neutral c (Carried c) := ⟨fun _ h => h.cfg, fun _ _ h => h.congr, fun _ _ h => h.congr⟩

/-! The other agents. -/

/-- A frame more on the air. -/
theorem flying_append (h : Carried c s) {f : AirFrame} (hf : f.ok = true) : ∀ g ∈ s.air ++ [f], g.ok = true := fun g hg => by
  rcases List.mem_append.mp hg with hg | hg
  · exact h.flying g hg
  · exact List.mem_singleton.mp hg ▸ hf

/-- A frame less. -/
theorem flying_erase (h : Carried c s) (i : Nat) : ∀ g ∈ s.air.eraseIdx i, g.ok = true :=
  fun g hg => h.flying g (List.mem_of_mem_eraseIdx hg)

theorem transmitComplete (h : Carried c s) : Carried c (transmitComplete s) := by
  unfold Machine.transmitComplete
  split
  · cases hb : s.dev.burst with
    | none => exact h
    | some b => exact ⟨h.cfg, h.select, h.device.finishBurst b, h.flying_append (h.device.burst b hb)⟩
  · exact h

theorem airOffer (h : Carried c s) (i : Nat) (aw : Byte) : Carried c (airOffer i aw s) := by
  have hu := airOffer_untouched i aw s
  have hx : (Machine.airOffer i aw s).dev.Ok c ∧ ∀ g ∈ (Machine.airOffer i aw s).air, g.ok = true := by
    unfold Machine.airOffer offerFrame
    cases hf : s.air[i]? with
    | none => exact ⟨h.device, h.flying⟩
    | some f =>
      obtain rfl := h.cfg
      refine ⟨?_, h.flying_erase i⟩
      show Device.Ok _ (if s.cfg.present then _ else _)
      split
      · exact h.device.receive _ _ (h.flying f (List.mem_of_getElem? hf)) aw
      · exact h.device
  exact ⟨hu.cfg.trans h.cfg, fun hp => by rw [hu.frame, hu.csn]; exact h.select hp, hx.1, hx.2⟩

theorem event (e : EnvEvent) (h : Carried c s) : Carried c (applyEvent e s) := by
  cases e with
  | transmitComplete => exact h.transmitComplete
  | airOffer i aw => exact h.airOffer i aw
  | airDrop i => exact ⟨h.cfg, h.select, h.device, h.flying_erase i⟩
  | airAdd f =>
    show Carried c (if f.ok then _ else _)
    split
    · exact ⟨h.cfg, h.select, h.device, h.flying_append ‹_›⟩
    · exact h
  | tick =>
    show Carried c (if _ then _ else _)
    split
    · exact h.congr
    · exact h
  | present b =>
    show Carried c (if _ then _ else if _ then _ else _)
    split_ifs
    · exact h.congr
    · exact h.congr
    · exact h

theorem gap (h : Carried c s) : Carried c (gap s) := gap_keeps (fun _ _ h => h.congr) (fun e _ h => h.event e) h

/-! The engine. -/

/-- What keeps the device in order keeps it so when there is one. -/
theorem onDevice (h : Carried c s) {f : Device → Device} (hf : (f s.dev).Ok c) : (s.onDevice f).Ok c := by
  unfold State.onDevice
  split
  · exact hf
  · exact h.device

theorem selected (h : Carried c s) : Carried c s.selected := by
  refine ⟨h.cfg, fun hp => ?_, h.onDevice (h.device.congr rfl rfl rfl), h.flying⟩
  show (s.onDevice Device.select).frame = _ ↔ _
  rw [onDevice_present _ (h.cfg ▸ hp)]; exact iff_of_false nofun nofun

theorem deselected (h : Carried c s) : Carried c s.deselected := by
  refine ⟨h.cfg, fun hp => ?_, h.onDevice (by rw [h.cfg]; exact h.device.deselect), h.flying⟩
  show (s.onDevice (Device.deselect _)).frame = _ ↔ _
  rw [onDevice_present _ (h.cfg ▸ hp)]; exact iff_of_true rfl rfl

theorem exchanged (h : Carried c s) (shown : Bool) (out : Byte) : Carried c (s.exchanged shown out) := by
  have hd := exchanged_dev shown out s
  refine ⟨h.cfg, fun hp => ?_, ?_, h.flying⟩
  · rw [hd, if_pos (h.cfg ▸ hp), Device.exchange_frame_none]; exact h.select hp
  · rw [hd]
    split
    · exact h.device.exchange _ _
    · exact h.device

theorem raised (h : Carried c s) : Carried c s.raised := by
  cases hce : s.ce with
  | high => rw [State.raised_high hce]; exact h
  | low =>
    rw [State.raised_low hce]
    refine ⟨h.cfg, fun hp => ?_, h.onDevice (h.device.trigger _), h.flying⟩
    show (s.onDevice (Device.trigger _ _)).frame = _ ↔ _
    rw [onDevice_present _ (h.cfg ▸ hp), Device.trigger_frame]; exact h.select hp

/-- Every action keeps it. -/
theorem effect (c : Cfg) (e : Effect) : e.Keeps (Carried c) := by
  cases e with
  | frame op =>
    exact fun limit => ⟨Carried c, fun _ => Carried c,
      { opened := fun _ h => h.gap.selected.congr
        opcode := fun _ shown h => h.gap.exchanged shown op
        opcodeStuck := fun _ h _ => h.gap.congr
        data := fun _ shown out _ _ h => h.gap.exchanged shown out
        dataStuck := fun _ _ _ _ h _ => h.gap.congr
        noted := fun _ _ _ h => h.congr
        closed := fun _ _ _ h => h.gap.deselected.congr }⟩
  | ceHigh => exact fun _ h => h.gap.raised.congr
  | ceLow => exact fun _ h => h.gap.congr
  | wait => exact fun _ _ h => h.gap.congr
  | board => exact fun _ h => ⟨h.cfg, fun _ => iff_of_true rfl rfl, h.device.congr rfl rfl rfl, h.flying⟩
  | cache | tickdiv | countdown => exact fun _ _ h => h.congr
  | initialise | arm | alert | sample => exact fun _ h => h.congr

end Carried

end Sys2Proof.Machine
end

section
/-! The engine's and the host's side of the invariant: the cache once initialised, the countdown and the divider (10_state.md R21,
R22, 44_telemetry_loop.md R242). -/

namespace Sys2Proof.Machine

/-- The cache and the counters of a node with configuration `c` while the addresses of `l` are still to be cached: every other
entry is there, and every entry once initialised. -/
structure Hosted (c : Cfg) (l : List Byte) (s : State) : Prop where
  cfg : s.cfg = c
  filled : ∀ a ≤ Config.regHi, s.initialised = true ∨ a ∉ l → s.cached a ≠ none
  count : 1 ≤ s.countdown ∧ s.countdown ≤ Config.linkMax
  divide : s.tickdiv < c.childDiv

/-- Between two operations nothing but `initialised` says that an entry is there. -/
abbrev HostOk (c : Cfg) : State → Prop := Hosted c baselineAddresses

namespace Hosted

variable {c : Cfg} {l : List Byte} {s : State}

theorem hostOk (h : Hosted c l s) : HostOk c s :=
  ⟨h.cfg, fun a ha hi => h.filled a ha (.inl (hi.resolve_right fun hn => hn (mem_baseline ha))), h.count, h.divide⟩

/-- What else a node holds does not matter to it. -/
theorem congr {t : State} (h : Hosted c l s) (hc : t.cfg = s.cfg := by rfl) (hx : t.cache = s.cache := by rfl)
    (hi : t.initialised = s.initialised := by rfl) (hn : t.countdown = s.countdown := by rfl)
    (hd : t.tickdiv = s.tickdiv := by rfl) : Hosted c l t :=
  ⟨hc.trans h.cfg, fun a ha => by rw [hi, State.cached_congr hx]; exact h.filled a ha, hn ▸ h.count, hd ▸ h.divide⟩

theorem neutral (c : Cfg) (l : List Byte) : Neutral c (Hosted c l) :=
  ⟨fun _ h => h.cfg, fun _ _ h => h.congr, fun _ _ h => h.congr⟩

theorem gap (h : Hosted c l s) : Hosted c l (gap s) :=
  h.congr (gap_cfg s) (gap_cache s) (gap_initialised s) (gap_countdown s) (gap_tickdiv s)

/-- An entry is cached. -/
theorem setCached (a v : Byte) (h : Hosted c (a :: l) s) : Hosted c l (s.setCached a v) := by
  refine ⟨h.cfg, fun b hb hi => ?_, h.count, h.divide⟩
  rw [State.cached_setCached]
  by_cases hab : a = b
  · rw [if_pos hab, if_pos (hab ▸ hb)]; exact Option.some_ne_none v
  · rw [if_neg hab]
    exact h.filled b hb (hi.imp id fun hn => List.not_mem_cons_of_ne_of_not_mem (Ne.symm hab) hn)

theorem cons (a : Byte) (h : Hosted c l s) : Hosted c (a :: l) s :=
  ⟨h.cfg, fun b hb hi => h.filled b hb (hi.imp id fun hn => List.not_mem_of_not_mem_cons hn), h.count, h.divide⟩

/-- The actions that have the counters and `initialised` alone. -/
theorem effect {e : Effect} (hc : e ≠ .countdown) (hd : e ≠ .tickdiv) (hi : e = .initialise → l = []) : e.Keeps (Hosted c l) := by
  cases e with
  | frame op =>
    exact fun limit => ⟨Hosted c l, fun _ => Hosted c l,
      { opened := fun _ h => h.gap.congr
        opcode := fun _ _ h => h.gap.congr
        opcodeStuck := fun _ h _ => h.gap.congr
        data := fun _ _ _ _ _ h => h.gap.congr
        dataStuck := fun _ _ _ _ h _ => h.gap.congr
        noted := fun _ _ _ h => h.congr
        closed := fun _ _ _ h => h.gap.congr }⟩
  | ceHigh =>
    exact fun _ h => h.gap.congr (State.raised_cfg _) (State.raised_cache _) (State.raised_initialised _)
      (State.raised_countdown _) (State.raised_tickdiv _)
  | ceLow => exact fun _ h => h.gap.congr
  | wait => exact fun _ _ h => h.gap.congr
  | cache a => exact fun v _ h => (h.cons a).setCached a v
  | initialise => exact fun _ h => ⟨h.cfg, fun a ha _ => h.filled a ha (.inr (by rw [hi rfl]; exact List.not_mem_nil)), h.count, h.divide⟩
  | board | arm | alert | sample => exact fun _ h => h.congr
  | countdown => exact absurd rfl hc
  | tickdiv => exact absurd rfl hd

end Hosted

/-! Init fills the cache before it says so. -/

section

variable {c : Cfg}

theorem readBaseline_fills (l : List Byte) :
    Spec (Hosted c l) (readBaseline l) (fun _ => Hosted c []) (fun _ => HostOk c) := by
  induction l with
  | nil => exact Spec.pure fun _ h => h
  | cons a l ih =>
    have hf : (Effect.frame (readOpcode a)).Keeps (Hosted c (a :: l)) := Hosted.effect nofun nofun nofun
    have hr : Keep (Hosted c (a :: l)) (fun _ => HostOk c) (readRegister a) :=
      (readRegister_keeps (Hosted.neutral c _).blind (readFrame_keeps hf)).mono (fun _ h => h) (fun _ _ h => h)
        fun _ _ h => h.hostOk
    refine Spec.bind hr fun _ => Spec.bind (R := fun _ => Hosted c l) (fun s h => ?_) fun _ => ih
    exact (h.setCached a s.port.shiftIn).congr

/-- Init after the baseline read (41_transceiver_config.md R161). -/
def initRest (c : Cfg) : Eng Byte := do
  configure 0 c.regConfig c.configInit
  waitUs c.tSettle
  configure 1 c.regSetupRetr c.setupRetrInit
  configure 2 c.regSetupAw c.awInit
  configure 3 c.regRfSetup c.rfSetup
  configure 4 c.regRxPwP0 c.rxPwInit
  configure 5 c.regRfCh c.channel
  writeRegisterBurst c.regTxAddr c.pipeAddr.toList
  configure 6 c.regEnAa Config.enAaInit
  internal State.nowInitialised
  return (← locals).rc

theorem initBody_eq (c : Cfg) : initBody c = readBaseline baselineAddresses >>= fun _ => initRest c := rfl

/-- With the cache filled, every action but those of the counters keeps it so, the one that says so among them. -/
theorem filled_effect {e : Effect} (hc : e ≠ .countdown) (hd : e ≠ .tickdiv) : e.Keeps (Hosted c []) :=
  Hosted.effect hc hd fun _ => rfl

theorem configure_filled (k : Nat) (a d : Byte) : Keep (Hosted c []) (fun _ => Hosted c []) (configure k a d) := by
  have hb := (Hosted.neutral c []).blind
  refine configure_keeps hb (Keep.call hb (validated_keeps hb (forall_validatedEffects.mpr ⟨?_, ?_, ?_⟩) d)) <;>
    exact filled_effect nofun nofun

theorem initRest_filled : Keep (Hosted c []) (fun _ => Hosted c []) (initRest c) := by
  have hb := (Hosted.neutral c []).blind
  refine Keep.bind (configure_filled _ _ _) fun _ => Keep.bind (filled_effect (e := .wait) nofun nofun _) fun _ => ?_
  refine Keep.bind (configure_filled _ _ _) fun _ => Keep.bind (configure_filled _ _ _) fun _ => ?_
  refine Keep.bind (configure_filled _ _ _) fun _ => Keep.bind (configure_filled _ _ _) fun _ => ?_
  refine Keep.bind (configure_filled _ _ _) fun _ => ?_
  refine Keep.bind (Keep.call hb (burstFrame_keeps (filled_effect nofun nofun) _)) fun _ => ?_
  refine Keep.bind (configure_filled _ _ _) fun _ => ?_
  refine Keep.bind (Keep.internal hb (filled_effect (e := .initialise) nofun nofun)) fun _ => ?_
  exact Keep.bind Keep.locals fun _ => Keep.pure _

theorem initBody_hostOk : Keep (HostOk c) (fun _ => HostOk c) (initBody c) := by
  rw [initBody_eq]
  exact Spec.bind (readBaseline_fills _) fun _ => initRest_filled.mono (fun _ h => h) (fun _ _ h => h.hostOk) fun _ _ h => h.hostOk

/-! The counters (44_telemetry_loop.md R236, R239). -/

/-- An action of the kinds no counter and no initialisation is of. -/
theorem hostOk_effect {e : Effect} (hc : e ≠ .countdown) (hd : e ≠ .tickdiv) (hi : e ≠ .initialise) : e.Keeps (HostOk c) :=
  Hosted.effect hc hd fun h => absurd h hi

theorem withCountdown_hostOk {n : Nat} (hn : 1 ≤ n ∧ n ≤ Config.linkMax) (s : State) (h : HostOk c s) :
    HostOk c (s.withCountdown n) := ⟨h.cfg, h.filled, hn, h.divide⟩

theorem withTickdiv_hostOk {n : Nat} (hn : n < c.childDiv) (s : State) (h : HostOk c s) : HostOk c (s.withTickdiv n) :=
  ⟨h.cfg, h.filled, h.count, hn⟩

theorem linkMax_pos : 1 ≤ Config.linkMax ∧ Config.linkMax ≤ Config.linkMax := ⟨by decide, Nat.le_refl _⟩

/-- Only Init and Boot initialise, and only the ticks count (40_register_interface.md R130). -/
theorem effects_hostOk {i : Instr} (hi : i ≠ .init) (hb : i ≠ .boot) (hc : i ≠ .childTick) (hp : i ≠ .parentTick) :
    AllKept (HostOk c) (effects c i) := fun e he => by
  have owned := effects_owned c i e he
  exact hostOk_effect (fun h => hp (h ▸ owned :)) (fun h => hc (h ▸ owned :)) fun h => (h ▸ owned :).elim hi hb

theorem listen_hostOk : Keep (HostOk c) (fun _ => HostOk c) (startListeningBody c) :=
  listen_keeps (Hosted.neutral c _).blind (effects_hostOk (i := .startListening) nofun nofun nofun nofun)

theorem bootBody_hostOk : Keep (HostOk c) (fun _ => HostOk c) (bootBody c) :=
  bootBody_keeps (Hosted.neutral c _).blind (hostOk_effect (e := .board) nofun nofun nofun) initBody_hostOk listen_hostOk
    (hostOk_effect (e := .arm) nofun nofun nofun)

/-- The divider starts again at `CHILD_DIV`. -/
theorem childTickBody_hostOk (hd : 1 ≤ c.childDiv) : Keep (HostOk c) (fun _ => HostOk c) (childTickBody c) := by
  have hb := (Hosted.neutral c baselineAddresses).blind
  have ha : ∀ p s, HostOk c s → HostOk c (s.alerted p) := fun p => hostOk_effect (e := .alert p) nofun nofun nofun
  refine Spec.bind (R := fun t s => HostOk c s ∧ t.tickdiv = s.tickdiv) (Spec.get fun s h => ⟨h, rfl⟩) fun t => ?_
  split
  · refine Spec.bind (R := fun _ => HostOk c) (fun s h => (withTickdiv_hostOk hd s h.1).congr) fun _ => ?_
    refine Keep.bind (sampleSensor_keeps hb (hostOk_effect (e := .sample) nofun nofun nofun)) fun _ => ?_
    refine Keep.bind (Keep.call hb (Keep.guarded (send_keeps hb ?_ _ _))) fun _ => evaluate_keeps _ hb ha
    exact effects_hostOk (i := .send 0 []) nofun nofun nofun nofun
  · rename_i hne
    rintro s ⟨h, ht⟩
    have hlt := h.divide
    exact (withTickdiv_hostOk (n := t.tickdiv + 1) (by omega) s h).congr

/-- The countdown is reset in the tick that takes it to 0. -/
theorem countTick_hostOk : Keep (HostOk c) (fun _ => HostOk c) countTick := by
  intro s h
  have hle := h.count.2
  simp only [countTick, EStateM.run_bind, EStateM.run_get, internal_run]
  by_cases hz : s.countdown - 1 = 0
  · rw [if_pos hz]
    exact (withCountdown_hostOk linkMax_pos s h).congr
  · rw [if_neg hz]
    exact (withCountdown_hostOk (n := s.countdown - 1) (by omega) s h).congr

theorem takePayload_hostOk : Keep (HostOk c) (fun _ => HostOk c) (takePayload c) := by
  have hb := (Hosted.neutral c baselineAddresses).blind
  refine Keep.bind (Keep.call hb (fetchFrame_keeps (hostOk_effect nofun nofun nofun) _)) fun _ => ?_
  refine Keep.bind (Keep.noteLocals hb _) fun _ => ?_
  refine Keep.bind (Keep.call hb (stop_keeps hb (effects_hostOk (i := .stopListening) nofun nofun nofun nofun))) fun _ => ?_
  refine Keep.bind (Keep.call hb (Keep.guarded listen_hostOk)) fun _ => ?_
  exact Keep.bind (Keep.internal hb (withCountdown_hostOk linkMax_pos)) fun _ =>
    evaluate_keeps _ hb fun p => hostOk_effect (e := .alert p) nofun nofun nofun

theorem parentTickBody_hostOk : Keep (HostOk c) (fun _ => HostOk c) (parentTickBody c) :=
  parentTickBody_keeps (Hosted.neutral c _).blind countTick_hostOk
    (pollReceivedBody_keeps (Hosted.neutral c _).blind (commandFrame_keeps (hostOk_effect nofun nofun nofun))) takePayload_hostOk

/-- Every instruction. -/
theorem exec_hostOk {i : Instr} {s t : State} (hd : 1 ≤ s.cfg.childDiv) (h : exec i s = .next t) (hs : HostOk s.cfg s) :
    HostOk s.cfg t := by
  have k := Hosted.neutral s.cfg baselineAddresses
  by_cases h1 : i = .init
  · subst h1; exact k.serve h hs (reply_keeps initBody_hostOk)
  by_cases h2 : i = .boot
  · subst h2; exact k.serve h hs (reply_keeps bootBody_hostOk)
  by_cases h3 : i = .childTick
  · subst h3; exact k.serve h hs (reply_keeps (childTickBody_hostOk hd))
  by_cases h4 : i = .parentTick
  · subst h4; exact k.serve h hs (reply_keeps parentTickBody_hostOk)
  exact k.exec (effects_hostOk h1 h2 h3 h4) h hs

end

end Sys2Proof.Machine
end

section
/-! The invariant (`Inv`): its parts are those of the three sections before, of an engine that is idle or waits. -/

namespace Sys2Proof.Machine

/-! Requests that are refused. -/

/-- A refused request changes nothing but the response (60_exceptions.md R292). -/
theorem exec_refused {i : Instr} {s : State} {why : RefuseReason} (hi : isRequest i = true) (hs : s.seq = [])
    (hw : refusal s i = some why) : exec i s = .next (refuse why s) := by
  obtain ⟨check, m, hr⟩ := request_servedBy hi s
  have hrun : (guarded check m).run (accepted (.op i) s) = .ok (Reply.refusedFor why) (accepted (.op i) s) := by
    rw [guarded_run, hr.check, hw]; rfl
  rw [hr.runs, (serve_ok hs hrun .start).1]
  have hq : advance s.seq = s.seq := by rw [hs]; rfl
  show Host.Outcome.next { s with seq := advance s.seq, resp := some (Reply.refusedFor why) } = _
  rw [hq, refuse]

/-! A round of the poll of End (42_packet_io.md R193). -/

theorem PollingStack.polls {q : List Position} (h : PollingStack q) :
    ∃ p callers, q = p :: callers ∧ p.task = .op .endSend ∧ p.polls = true := by
  obtain ⟨ht, hk, hl⟩ := h
  cases q with
  | nil => rcases ht with h | ⟨_, _, h⟩ | ⟨_, _, h⟩ <;> cases h
  | cons p callers =>
    have h1 : p.task = .op .endSend := by rcases ht with h | ⟨_, _, h⟩ | ⟨_, _, h⟩ <;> exact (List.cons.inj h).1
    exact ⟨p, callers, rfl, h1, decide_eq_true ⟨h1, (List.cons.inj hk).1, hl p List.mem_cons_self⟩⟩

section

variable {s : State}

theorem resume_poll (h : PollingStack s.seq) :
    ∃ callers, resume s = pollOver callers ((endBody s.cfg).run s) := by
  obtain ⟨p, callers, hs, -, hp⟩ := h.polls
  exact ⟨callers, by rw [resume, hs, resumeAt, if_pos hp]⟩

/-- What the round and an alert keep, the step that runs the round keeps. -/
theorem poll_keeps {D : State → Prop} (k : Neutral s.cfg D) (he : Keep D (fun _ => D) (endBody s.cfg))
    (ha : (Effect.alert .overThreshold).Keeps D) (h : PollingStack s.seq) (hs : D s) : D (resume s) := by
  obtain ⟨callers, hr⟩ := resume_poll h
  have hd := he s hs
  rw [hr]
  revert hd
  cases (endBody s.cfg).run s with
  | ok st u => exact fun hu => k.returnInto ha _ _ hu
  | error w u => exact id

/-- End has returned into all its callers: the engine is idle. -/
theorem returnInto_idle (q : List Position) (r : Reply) (u : State) : (returnInto q r u).seq = [] := by
  induction q generalizing r u with
  | nil => rfl
  | cons p q ih =>
    rw [returnInto]
    split <;> exact ih _ _

/-- The round ends idle or waiting. -/
theorem poll_stops (h : PollingStack s.seq) : (resume s).seq = [] ∨ ∃ w, Halted w (resume s) := by
  obtain ⟨p, cs, hs, ht, hp⟩ := h.polls
  obtain ⟨-, hk, hl⟩ := of_decide_eq_true hp
  have hs' : s.seq = ⟨.op .endSend, 0, p.loc⟩ :: cs := by rw [hs, ← ht, ← hk]
  have round := endBody_follows s.cfg s (At.of_reach (L := fun _ _ => True) hs' hl trivial rfl (Reach.refl s))
  obtain ⟨callers, hr⟩ := resume_poll h
  rw [hr]
  revert round
  cases (endBody s.cfg).run s with
  | ok st u => exact fun _ => .inl (returnInto_idle _ _ _)
  | error w u => exact fun hu => .inr ⟨w, hu.2⟩

end

/-- In an exchange that hangs the engine waits on, and only the other agents step (40_register_interface.md R120). -/
theorem resume_hanging {s : State} (h : Halted .shift s) : resume s = gap s := by
  obtain ⟨p, cs, hs⟩ := List.exists_cons_of_ne_nil h.busy
  have hp : ¬ p.polls = true := fun hp => by
    obtain ⟨ht, hk, -⟩ := of_decide_eq_true hp
    have hx := h.2.2
    have hn : plan s p = .enter (.op (.writeCommand s.cfg.opcNop)) := by rw [plan, ht, hk]; rfl
    simp only [exchanging, hs, hn, Next.out, ite_self, reduceCtorEq] at hx
  rw [resume, hs, resumeAt, if_neg hp, (act_shift h).1]

/-! The invariant. -/

theorem legal_mapped {c : Cfg} (h : c.legal = true) : c.mapped = true := by
  simp only [Cfg.legal, Bool.and_eq_true] at h
  obtain ⟨⟨⟨⟨⟨⟨hm, -⟩, -⟩, -⟩, -⟩, -⟩, -⟩ := h
  exact hm

section

variable {s t : State}

theorem Inv.carried (h : Inv s) : Carried s.cfg s := ⟨rfl, h.select, ⟨h.txFifo, h.rxFifo, h.burst⟩, h.flying⟩

theorem Inv.hostOk (h : Inv s) : HostOk s.cfg s :=
  ⟨rfl, fun a ha hi => h.filled (hi.resolve_right fun hn => hn (mem_baseline ha)) a ha, h.count, h.divide⟩

/-- An idle engine. -/
theorem Inv.closed (h : Inv s) (hn : s.csn = .deasserted) : AtLevel .closed s := by
  obtain ⟨l, hl, hc⟩ := h.framed
  exact hc.mpr hn ▸ ⟨hl, hc⟩

/-- The parts together. -/
theorem inv_of {c : Cfg} (hc : Carried c t) (hh : HostOk c t) (framed : ∃ v, AtLevel v t) (idle : t.seq = [] → t.csn = .deasserted)
    (waiting : t.seq ≠ [] → Halted .shift t ∨ (PollingStack t.seq ∧ t.csn = .deasserted)) (depth : t.seq.length ≤ 6)
    (healthy : t.dev.fault = none) : Inv t := by
  obtain rfl := hc.cfg
  exact ⟨framed, hc.select, idle, waiting, depth, hc.device.txFifo, hc.device.rxFifo, hc.flying, hc.device.burst,
    fun hi a ha => hh.filled a ha (.inl hi), hh.count, hh.divide, healthy⟩

/-- An engine that has come by single steps to where it is idle or waits. -/
theorem inv_of_poised {c : Cfg} (hc : Carried c t) (hh : HostOk c t) (hp : Poised t) (hf : t.dev.fault = none)
    (hstop : t.seq = [] ∨ ∃ w, Halted w t) : Inv t := by
  refine inv_of hc hh (hp.framed.imp fun _ h => h.1) (fun hs => ?_) (fun hs => ?_) hp.stacked.length_le hf
  · exact (hp.closed (by rw [hs]; rfl)).2.mp rfl
  · obtain ⟨w, hw⟩ := hstop.resolve_left hs
    cases w with
    | shift => exact .inl hw
    | poll =>
      obtain ⟨p, cs, hq, hpoll⟩ := hw
      have stack := hp.stacked
      rw [hq] at stack
      have ht : p.task = .op .endSend := (of_decide_eq_true hpoll).1
      refine .inr ⟨hq ▸ stack.polling hpoll, (hp.closed ?_).2.mp rfl⟩
      rw [hq, ahead, ht]; exact List.drop_nil

/-- The ports do not matter to it. -/
theorem Inv.ports (h : Inv s) (b : Option Inbound) (r : Option Reply) : Inv { s with inbox := b, resp := r } :=
  ⟨h.framed, h.select, h.idle, h.waiting, h.depth, h.txFifo, h.rxFifo, h.flying, h.burst, h.filled, h.count, h.divide, h.healthy⟩

/-- The other agents step while the engine is idle or an exchange hangs. -/
theorem Inv.gap (h : Inv s) (hw : s.seq ≠ [] → Halted .shift (gap s)) : Inv (gap s) := by
  obtain ⟨l, hl⟩ := h.framed
  refine inv_of h.carried.gap h.hostOk.gap ⟨l, AtLevel.afterGap hl⟩ (fun hs => ?_) (fun hs => ?_) ?_ ((gap_fault s).trans h.healthy)
  · exact (gap_csn s).trans (h.idle ((gap_seq s).symm.trans hs))
  · exact .inl (hw (by rwa [gap_seq] at hs))
  · rw [gap_seq]; exact h.depth

theorem eq_of_faultOr {f : Option DeviceFault} (h : faultOr s f = .next t) : s = t := by
  cases f with
  | none => exact Host.Outcome.next.inj h
  | some why => cases h

/-- An engine that has accepted an operation and come, by single steps, to its return or its wait. -/
theorem Inv.accepted {task : Task} {n : Nat} {c : Cfg} (h : Inv s) (hs : s.seq = [])
    (htask : Completes .closed (busActions s.cfg task)) (ht : t = acts n (accepted task s)) (hc : Carried c t)
    (hh : HostOk c t) (hf : t.dev.fault = none)
    (hstop : (acts n (Machine.accepted task s)).seq = [] ∨ ∃ w, Halted w (acts n (Machine.accepted task s))) : Inv t := by
  subst ht
  exact inv_of_poised hc hh ((Poised.accepted hs (h.closed (h.idle hs)) htask).acts n) hf hstop

/-- A raw frame (45_device_interpreter.md R252). -/
theorem Inv.runFrame {op : Byte} {data : List Byte} (h : Inv s) (ht : runFrame (op :: data) s = .next t) : Inv t := by
  have hf := (runFrame_fault ht).trans h.healthy
  have hc := (Carried.neutral s.cfg).runFrame ht h.carried (Carried.effect _ _)
  have hh := (Hosted.neutral s.cfg _).runFrame ht h.hostOk (hostOk_effect nofun nofun nofun)
  by_cases hs : s.seq = []
  · obtain ⟨n, hn, -, hstop⟩ := runFrame_acts (bytes := op :: data) hs
    exact h.accepted hs (task := .frame (op :: data)) (completes_raw op data) (eq_of_faultOr (hn.symm.trans ht)).symm hc hh hf hstop
  · have hb := (runFrame_next ht).1
    rw [serve, if_pos hs] at hb
    cases hb
    exact h.ports _ _

/-- An instruction presented to an idle or a busy engine. -/
theorem Inv.exec {i : Instr} (h : Inv s) (hl : s.cfg.legal = true) (ht : exec i s = .next t) : Inv t := by
  cases hi : isRequest i with
  | false =>
    obtain ⟨op, data, he⟩ := encode_frame_of_not_request s.cfg.toOpcodes hi
    exact h.runFrame ((exec_frame he).symm.trans ht)
  | true =>
    by_cases hs : s.seq = []
    · cases hw : refusal s i with
      | some why =>
        cases (exec_refused hi hs hw).symm.trans ht
        exact h.ports _ _
      | none =>
        obtain ⟨n, hn, -, hstop⟩ := exec_request_acts hi hs hw
        exact h.accepted hs (completes_operation _ i) (Host.Outcome.next.inj (ht.symm.trans hn))
          ((Carried.neutral s.cfg).exec (fun e _ => Carried.effect _ e) ht h.carried)
          (exec_hostOk (legal_childDiv hl) ht h.hostOk) ((exec_fault (legal_mapped hl) ht).trans h.healthy) hstop
    · cases (exec_busy i hs h.healthy).symm.trans ht
      exact h.ports _ _

/-- A node with nothing on its port. -/
theorem Inv.resume (h : Inv s) (hl : s.cfg.legal = true) : Inv (resume s) := by
  by_cases hs : s.seq = []
  · have hr : Machine.resume s = Machine.gap s := by rw [Machine.resume, hs]; rfl
    rw [hr]
    exact h.gap fun hn => absurd hs hn
  obtain hw | ⟨hq, hn⟩ := h.waiting hs
  · rw [resume_hanging hw]
    exact h.gap fun _ => (act_shift hw).1 ▸ (act_shift hw).2
  · obtain ⟨n, hn', -⟩ := resume_follows hq
    obtain ⟨p, cs, hp, ht, -⟩ := hq.polls
    have poised : Poised s := .outside hq.stacked (h.closed hn) fun p' cs' he => by
      obtain ⟨rfl, rfl⟩ := List.cons.inj (hp.symm.trans he)
      rw [ht]; rfl
    have poll {D : State → Prop} (k : Neutral s.cfg D) (he : Keep D (fun _ => D) (endBody s.cfg))
      (ha : (Effect.alert .overThreshold).Keeps D) (hs : D s) : D (Machine.resume s) := poll_keeps k he ha hq hs
    have hc : Carried s.cfg (Machine.resume s) := poll (Carried.neutral _)
      (end_keeps (Carried.neutral _).blind fun e _ => Carried.effect _ e) (Carried.effect _ _) h.carried
    have hh : HostOk s.cfg (Machine.resume s) := poll (Hosted.neutral _ _)
      (end_keeps (Hosted.neutral _ _).blind (effects_hostOk (i := .endSend) nofun nofun nofun nofun))
      (hostOk_effect nofun nofun nofun) h.hostOk
    have k := engineKeeps_faultIs (legal_mapped hl) none
    have hf : FaultIs s.cfg none (Machine.resume s) :=
      poll ⟨k.cfg, k.blind, k.resp⟩ k.endBody (k.alerted _) ⟨rfl, h.healthy⟩
    exact inv_of_poised hc hh (hn' ▸ poised.acts n) hf.2 (poll_stops hq)

end

end Sys2Proof.Machine

namespace Sys2Proof

open Sys2Proof.Machine

/-- Settles O54: the device's side and the host's side of `Inv` are kept by every action; the framing, the stack and what the
engine waits for are those of the single steps (`Poised`) the step is a run of. -/
theorem everyStepKeepsTheInvariant : Obligations.EveryStepKeepsTheInvariant := by
  intro s t hl h hstep
  have hf : Inv (fetched s) := h.ports none s.resp
  obtain ⟨i, hi⟩ | rfl | rfl | ⟨op, data, hr⟩ | ⟨-, rfl⟩ := step_cases hstep
  · exact hf.exec hl hi
  · exact hf.ports _ _
  · exact hf
  · exact hf.runFrame hr
  · exact h.resume hl

end Sys2Proof
end

section
/-! RegisterInterface (40_register_interface.md): what a request for one frame returns, and what it leaves. -/

namespace Sys2Proof.Machine

/-- A request served to its return: its check passed, its computation ran. -/
theorem request_returns {i : Instr} {α : Type} {m : Eng α} {f : α → Reply} {why : State → Option RefuseReason} {s t : State}
    {v : α} (he : exec i s = serve (.op i) (guarded why (m >>= fun a => pure (f a))) s) (hs : s.seq = [])
    (hw : why (begun (.op i) s) = none) (hm : m.run (begun (.op i) s) = .ok v t) (w : Work (begun (.op i) s) t) :
    Returns i s (f v) (finishOperation (f v) t.leaving) := by
  refine returns_of he hs ?_ w.inside
  rw [guarded_ok hw, EStateM.run_bind, hm]; rfl

section

variable {i : Instr} {s t : State}

/-- The next request finds the engine idle, and exchanges still complete. -/
theorem Work.ready (w : Work (begun (.op i) s) t) (h : Ready s) (r : Reply) : Ready (finishOperation r t.leaving) := by
  obtain ⟨hs, hx, hm⟩ := h
  refine ⟨?_, w.complete hx, (congrArg Cfg.mapped w.cfg).trans hm⟩
  show popped t.seq = []
  rw [w.inside.popped]
  show advance s.seq = []
  rw [hs]; rfl

theorem Work.stillQuiet (w : Work (begun (.op i) s) t) (h : Quiet s) (r : Reply) : Quiet (finishOperation r t.leaving) :=
  (w.quiet (show Quiet (begun (.op i) s) from h)).1

end

/-! ReadRegister (R123). -/

/-- ReadRegister, and that the node is ready for the next request. -/
theorem readRegister_returns {a : Byte} (ha : a ≤ Config.regHi) {s : State} (h : Ready s) :
    ∃ t st v, Returns (.readRegister a) s (Reply.byte v) t ∧ Ready t ∧ (Quiet s → Quiet t) ∧ t.cfg = s.cfg ∧
      t.trace = .csnDeassert :: .xchg Config.dummy (some v) :: .xchg (readOpcode a) (some st) :: .csnAssert :: s.trace ∧
      t.cache = s.cache ∧ t.csn = .deasserted ∧ t.ce = s.ce ∧
      (∀ b i, t.dev.cell s.cfg b i = s.dev.cell s.cfg b i) ∧
      (s.cfg.present = false → v = s.cfg.absentByte) ∧
      (s.cfg.present = true → a ≠ s.cfg.regStatus → ∀ b, s.dev.cell s.cfg a 0 = some (.known b) → v = b) ∧
      (s.cfg.present = true → Quiet s → t.dev = s.dev.inFrame .none ∧ st = s.dev.statusByte s.cfg ∧
        (a = s.cfg.regStatus → ∀ b, s.dev.cell s.cfg a 0 = some (.known b) → v = s.dev.statusByte s.cfg)) := by
  obtain ⟨t, st, v, hr, hf, htr, -, hcell, habs, hval, hq⟩ :=
    readRegisterBody_ok a ha (s := begun (.op (.readRegister a)) s) h.2.1
  exact ⟨_, st, v, request_returns rfl h.1 (addressRefusal_none ha _) hr hf.work, hf.work.ready h _,
    fun hq => hf.work.stillQuiet hq _, hf.cfg, htr, hf.cache, hf.csn, hf.ce, hcell _, habs, hval, hq⟩

/-! WriteRegister (R124). -/

/-- WriteRegister: the store is the device's, if there is one. -/
theorem writeRegister_returns {a : Byte} (ha : a ≤ Config.regHi) (d : Byte) {s : State} (h : Ready s) :
    ∃ t, Returns (.writeRegister a d) s Reply.plain t ∧ Ready t ∧ t.cfg = s.cfg ∧
      t.trace = .csnDeassert :: .xchg d none :: .xchg (writeOpcode a) none :: .csnAssert :: s.trace ∧
      t.cache = s.cache ∧ t.csn = .deasserted ∧ t.ce = s.ce ∧
      (s.cfg.present = false → t.dev = s.dev) ∧
      (s.cfg.present = true → ∀ b i, t.dev.cell s.cfg b i = (s.dev.store s.cfg a 0 d).cell s.cfg b i) ∧
      (s.cfg.present = true → Quiet s → t.dev = (s.dev.store s.cfg a 0 d).inFrame .none) := by
  obtain ⟨t, hr, hf, htr, hcell, hq⟩ := writeRegisterBody_ok a d ha (s := begun (.op (.writeRegister a d)) s) h.2.1
  exact ⟨_, request_returns (f := fun _ => Reply.plain) rfl h.1 (addressRefusal_none ha _) hr hf.work, hf.work.ready h _, hf.cfg,
    htr, hf.cache, hf.csn, hf.ce, hf.absent, hcell, hq⟩

/-- A store as the first byte of a frame reaches the first byte of its register alone. -/
theorem cell_store_five {c : Cfg} (hm : c.mapped = true) {a : Byte} (h5 : isFiveByte c a = true) (v : Byte) (d : Device) {i : Nat}
    (hi : i ≠ 0) : (d.store c a 0 v).cell c a i = d.cell c a i := by
  by_cases hs : a ∈ c.stuck
  · rw [Device.store_stuck hs]
  · obtain ⟨hr, hst, -⟩ := five_facts hm h5
    rw [cell_store_takes hs hr hst (.inl ⟨h5, by decide⟩), Device.cell_setCell, if_neg fun e => hi e.2.symm]

/-- What a register that takes writes holds after one byte (45_device_interpreter.md R255, R262). -/
theorem cell_store_first {c : Cfg} {a : Byte} (ha : a ≤ Config.regHi) (hs : a ∉ c.stuck) (hr : a ∉ c.readOnlyRegs)
    (hst : a ≠ c.regStatus) (v : Byte) (d : Device) : (d.store c a 0 v).cell c a 0 =
      some (if legalValue c a v = true ∨ isFiveByte c a = true then .known v else .unsettled) := by
  by_cases hl : legalValue c a v = true ∨ isFiveByte c a = true
  · rw [if_pos hl]; exact cell_store_takes_eq hs hr hst ha hl
  · obtain ⟨hv, h5⟩ := not_or.mp hl
    rw [if_neg hl, store_unsettles hs (.inr ⟨hr, .inr (.inr ⟨hst, eq_false_of_ne_true h5, fun e => hv e.2⟩)⟩),
      Device.cell_unsettle, if_pos rfl]
    obtain ⟨x, hx⟩ := fileGet_isSome d.regs (address_lt ha)
    rw [show d.cell c a 0 = some x from hx]; rfl

/-- A store that is dropped, or that clears flags, leaves every byte as it was (45_device_interpreter.md R255, R256, R264). -/
theorem cell_store_dropped {c : Cfg} (hm : c.mapped = true) {a : Byte}
    (h : a ∈ c.stuck ∨ a ∈ c.readOnlyRegs ∨ a = c.regStatus) (v : Byte) (d : Device) (b : Byte) (i : Nat) :
    (d.store c a 0 v).cell c b i = d.cell c b i := by
  rcases h with h | h | rfl
  · rw [Device.store_stuck h]
  · rw [Device.store_readOnly h]
  · exact cell_store_status hm v d c b i

/-! WriteRegisterBurst (R127). -/

/-- WriteRegisterBurst of five bytes: the stores are the device's, if there is one. -/
theorem writeRegisterBurst_returns {a : Byte} (ha : a ≤ Config.regHi) (buf : List Byte) {s : State} (h : Ready s) :
    ∃ t, Returns (.writeRegisterBurst a 5 buf) s Reply.plain t ∧
      t.trace = .csnDeassert :: (((buf.take 5).map fun b => TraceEvent.xchg b none).reverse ++
        .xchg (writeOpcode a) none :: .csnAssert :: s.trace) ∧
      t.cache = s.cache ∧ t.csn = .deasserted ∧ t.ce = s.ce ∧
      (s.cfg.present = false → t.dev = s.dev) ∧
      (s.cfg.present = true → ∀ b i, t.dev.cell s.cfg b i = (s.dev.storeAll s.cfg a 0 (buf.take 5)).cell s.cfg b i) := by
  obtain ⟨t, hr, hf, htr, hcell, -⟩ :=
    writeRegisterBurstBody_ok a (payload 5 buf) ha (s := begun (.op (.writeRegisterBurst a 5 buf)) s) h.2.1
  have hw : burstRefusal a 5 (begun (.op (.writeRegisterBurst a 5 buf)) s) = none := by
    rw [burstRefusal_eq, if_neg (show ¬ (0x1D#8 < a) from BitVec.not_lt.mpr ha), if_neg (not_not.mpr rfl)]
  exact ⟨_, request_returns (f := fun _ => Reply.plain) rfl h.1 hw hr hf.work, htr, hf.cache, hf.csn, hf.ce, hf.absent, hcell⟩

end Sys2Proof.Machine

namespace Sys2Proof

open Sys2Proof.Machine

/-- Settles O16: one frame of two exchanges, the second byte returned. -/
theorem readRegisterReturns : Obligations.ReadRegisterReturns := by
  intro s a ha h
  obtain ⟨t, st, v, hret, -, -, -, htr, hca, hn, hce, hcell, habs, hval, hq⟩ := readRegister_returns ha h
  exact ⟨t, st, v, hret, htr, hca, hn, hce, hcell, habs, hval, hq⟩

/-- Settles O17: the store is `Device.store`, of the first byte of its frame. -/
theorem writeRegisterStores : Obligations.WriteRegisterStores := by
  intro s a d ha h
  obtain ⟨t, hret, -, -, htr, hca, hn, hce, habs, hcell, hq⟩ := writeRegister_returns ha d h
  have hm := h.2.2
  refine ⟨t, hret, htr, hca, hn, hce, fun b hb i => ?_, fun h5 i hi => ?_, fun hdrop i => ?_, fun htakes hr hst => ?_,
    fun htakes hst hquiet => ?_⟩
  · cases hp : s.cfg.present with
    | false => rw [habs hp]
    | true => rw [hcell hp, Device.cell_store_ne _ hb.symm]
  · cases hp : s.cfg.present with
    | false => rw [habs hp]
    | true => rw [hcell hp, cell_store_five hm h5 d _ hi]
  · cases hp : s.cfg.present with
    | false => rw [habs hp]
    | true => rw [hcell hp, cell_store_dropped hm (hdrop.resolve_left (by rw [hp]; nofun))]
  · rw [hcell htakes.1, cell_store_first ha htakes.2 hr hst]
  · subst hst
    rw [hq htakes.1 hquiet, store_status hm htakes.2]; rfl

/-- Settles O18: the byte stored is what the read finds, whatever happens between. -/
theorem registerRoundTrip : Obligations.RegisterRoundTrip := by
  intro s a d ha h htakes hr hst hl
  obtain ⟨t, hret, ht, hcfg, -, -, -, -, -, hcell, -⟩ := writeRegister_returns ha d h
  obtain ⟨u, st, v, hread, -, -, -, -, -, -, -, -, -, hval, -⟩ := readRegister_returns ha ht
  rw [hcfg] at hval
  have hstored : t.dev.cell s.cfg a 0 = some (.known d) := by rw [hcell htakes.1, cell_store_takes_eq htakes.2 hr hst ha hl]
  obtain rfl := hval htakes.1 hst d hstored
  exact ⟨t, u, hret.1, hread⟩

/-- Settles O19: the first read leaves the byte, and with no other agent the status byte, as it was. -/
theorem readIdempotence : Obligations.ReadIdempotence := by
  intro s a b ha h hquiet hb
  obtain ⟨t, st, v, hret, ht, hq, hcfg, -, -, -, -, hcell, habs, hval, hstat⟩ := readRegister_returns ha h
  obtain ⟨u, st', v', hret', -, -, -, -, -, -, -, -, habs', hval', hstat'⟩ := readRegister_returns ha ht
  rw [hcfg] at habs' hval' hstat'
  have hb' : t.dev.cell s.cfg a 0 = some (.known b) := (hcell a 0).trans hb
  have same : v' = v := by
    cases hp : s.cfg.present with
    | false => rw [habs hp, habs' hp]
    | true =>
      by_cases ha' : a = s.cfg.regStatus
      · obtain ⟨hd, -, hv⟩ := hstat hp hquiet
        rw [hv ha' b hb, (hstat' hp (hq hquiet)).2.2 ha' b hb', hd, Device.statusByte_inFrame]
      · rw [hval hp ha' b hb, hval' hp ha' b hb']
  exact ⟨t, u, _, hret, same ▸ hret'⟩

/-- Settles O21: a 5-byte register takes the five bytes in order; in any other the bytes after the first leave draws. -/
theorem writeRegisterBurstStores : Obligations.WriteRegisterBurstStores := by
  intro s a buf ha h hlen
  obtain ⟨t, hret, htr, hca, hn, hce, habs, hcell⟩ := writeRegisterBurst_returns ha buf h
  have hl : (buf.take 5).length = 5 := by rw [List.length_take]; omega
  refine ⟨t, hret, htr, hca, hn, hce, fun b hb i => ?_, fun htakes h5 i hi => ?_, fun htakes h5 => ?_⟩
  · cases hp : s.cfg.present with
    | false => rw [habs hp]
    | true => rw [hcell hp, storeAll_other _ hb]
  · rw [hcell htakes.1, storeAll_five h.2.2 h5 htakes.2 _ 0 _ (by omega), if_pos (by omega), Nat.sub_zero,
      List.getElem?_take_of_lt hi]
  · obtain ⟨x, rest, hx⟩ := List.exists_cons_of_length_pos (l := buf.take 5) (by omega)
    rw [hx, List.length_cons] at hl
    rw [hcell htakes.1, hx, Device.storeAll]
    exact storeAll_unsettles h5 htakes.2 ha rest 1 (by decide) _ (.inl (List.ne_nil_of_length_pos (by omega)))

end Sys2Proof
end

section
/-! The data-less commands (40_register_interface.md R125, 45_device_interpreter.md R254): one exchange, whatever the other
agents do. -/

namespace Sys2Proof.Machine

/-- A property of the device that neither the end of a burst nor a frame received undoes, no gap undoes. -/
theorem gap_keeps_device {P : Device → Prop} (hb : ∀ b d, P d → P (d.finishBurst b))
    (hr : ∀ c fresh ce f aw d, P d → P (d.receive c fresh ce f aw)) {s : State} (h : P s.dev) : P (gap s).dev := by
  refine gap_keeps (I := fun t => P t.dev) (fun t q h => h) (fun e t h => ?_) h
  cases e with
  | transmitComplete =>
    simp only [applyEvent, transmitComplete]
    split
    · cases t.dev.burst with
      | none => exact h
      | some b => exact hb b _ h
    · exact h
  | airAdd f => simp only [applyEvent]; split <;> exact h
  | airOffer i aw =>
    simp only [applyEvent, airOffer, offerFrame]
    split
    · exact h
    · dsimp only; split
      · exact hr _ _ _ _ _ _ h
      · exact h
  | airDrop i => exact h
  | tick => simp only [applyEvent, tick]; split <;> exact h
  | present b => simp only [applyEvent, presentInbound]; split_ifs <;> exact h

/-! The flags. -/

/-- The flags that stand in `d` stand in `e`, and the retransmit flag is the same. -/
def Device.FlagsStand (d e : Device) : Prop :=
  (d.dataReceived = true → e.dataReceived = true) ∧ (d.dataSent = true → e.dataSent = true) ∧
    e.maxRetransmit = d.maxRetransmit

theorem Device.FlagsStand.refl (d : Device) : d.FlagsStand d := ⟨id, id, rfl⟩

theorem gap_flagsStand {d : Device} {s : State} (h : d.FlagsStand s.dev) : d.FlagsStand (gap s).dev := by
  refine gap_keeps_device (fun b e h => ⟨h.1, fun _ => rfl, h.2.2⟩) (fun c fresh ce f aw e h => ?_) h
  rcases receive_cases c fresh ce f aw e with he | ⟨-, -, -, he⟩ <;> rw [he]
  · exact h
  · exact ⟨fun _ => rfl, h.2⟩

/-! An emptied FIFO. -/

/-- Nothing but the engine loads the transmit FIFO. -/
theorem gap_txFifo_nil {s : State} (h : s.dev.txFifo = []) : (gap s).dev.txFifo = [] := by
  refine gap_keeps_device (P := fun d => d.txFifo = []) (fun b d h => ?_) (fun c fresh ce f aw d h => ?_) h
  · rw [Device.finishBurst_txFifo, h]; exact ite_self _
  · rcases receive_cases c fresh ce f aw d with he | ⟨-, -, -, he⟩ <;> rw [he] <;> exact h

/-! The frame of a command. -/

/-- The opcode of a command carries it out. -/
theorem openFrame_command {c : Cfg} (hm : c.mapped = true) {b : Byte} (hb : b = c.opcFlushTx ∨ b = c.opcFlushRx ∨ b = c.opcNop)
    (d : Device) : d.openFrame c b = (d.command c b).inFrame .done := by
  unfold Device.openFrame
  obtain rfl | rfl | rfl := hb
  · rw [decodeOpcode_flushTx (mapped_opcodes hm), command_flushTx]; rfl
  · rw [decodeOpcode_flushRx (mapped_opcodes hm), command_flushRx hm]; rfl
  · rw [decodeOpcode_nop (mapped_opcodes hm), command_nop hm]; rfl

theorem command_flagsStand {d e : Device} (h : d.FlagsStand e) (c : Cfg) (b : Byte) : d.FlagsStand (e.command c b) := by
  unfold Device.command; split_ifs <;> exact h

section

variable {b : Byte} {s : State}

/-- What the device is once the command is exchanged. -/
theorem sent_command (hm : s.cfg.mapped = true) (hb : b = s.cfg.opcFlushTx ∨ b = s.cfg.opcFlushRx ∨ b = s.cfg.opcNop)
    (hp : s.cfg.present = true) :
    (sent true b (opened s)).dev = ((gap (opened s)).dev.command s.cfg b).inFrame .done := by
  rw [sent_dev ((opened_cfg s).symm ▸ hp), Device.exchange_open _ _ _ _ ((gap_frame _).trans (opened_frame hp)), opened_cfg,
    openFrame_command hm hb]

/-- A frame that carried out a command commits nothing when it closes. -/
theorem closed_command (hm : s.cfg.mapped = true) (hb : b = s.cfg.opcFlushTx ∨ b = s.cfg.opcFlushRx ∨ b = s.cfg.opcNop)
    (hp : s.cfg.present = true) :
    (framedAll true b [] s).dev = (gap (sent true b (opened s))).dev.inFrame .none := by
  have hf : (gap (sent true b (opened s))).dev.frame = .done := by rw [gap_frame, sent_command hm hb hp]; rfl
  rw [framedAll, sentAll, closed_dev (by simpa using hp), Device.deselect, Device.commit, hf]

theorem commandFrame_flagsStand (hm : s.cfg.mapped = true)
    (hb : b = s.cfg.opcFlushTx ∨ b = s.cfg.opcFlushRx ∨ b = s.cfg.opcNop) :
    s.dev.FlagsStand (framedAll true b [] s).dev := by
  cases hp : s.cfg.present with
  | false => rw [(framedAll_frame true b [] s).absent hp]; exact .refl _
  | true =>
    have opened : s.dev.FlagsStand (opened s).dev := by rw [opened_dev hp]; exact gap_flagsStand (.refl _)
    have sent : s.dev.FlagsStand (sent true b (Machine.opened s)).dev := by
      rw [sent_command hm hb hp]; exact command_flagsStand (gap_flagsStand opened) _ _
    rw [closed_command hm hb hp]; exact gap_flagsStand sent

theorem commandFrame_txFifo (hm : s.cfg.mapped = true) (hp : s.cfg.present = true) (hb : b = s.cfg.opcFlushTx) :
    (framedAll true b [] s).dev.txFifo = [] := by
  rw [closed_command hm (.inl hb) hp]
  refine gap_txFifo_nil ?_
  rw [sent_command hm (.inl hb) hp, hb, command_flushTx]; rfl

theorem commandFrame_rxFifo (hm : s.cfg.mapped = true) (hp : s.cfg.present = true) (hb : b = s.cfg.opcFlushRx)
    (hce : s.ce = .low) : (framedAll true b [] s).dev.rxFifo = [] := by
  rw [closed_command hm (.inr (.inl hb)) hp]
  refine (gap_low (((opened_bus s).trans (sent_bus true b _)).ce.trans hce)).1.trans ?_
  rw [sent_command hm (.inr (.inl hb)) hp, hb, command_flushRx hm]; rfl

end

/-- A command on a device with no burst in progress empties the FIFO it names, and that is all. -/
theorem command_fifos {c : Cfg} (hm : c.mapped = true) (b : Byte) {d : Device} (h : d.burst = none) : d.command c b =
    { d with
      txFifo := if b = c.opcFlushTx then [] else d.txFifo
      rxFifo := if b = c.opcFlushRx then [] else d.rxFifo } := by
  have hne := flushRx_ne_flushTx (mapped_opcodes hm)
  by_cases ht : b = c.opcFlushTx
  · rw [Device.command, if_pos ht, if_pos ht, if_neg fun hr => hne (hr.symm.trans ht), h]
    rfl
  · rw [Device.command, if_neg ht, if_neg ht]
    split <;> rfl

/-- From `s` to `t` a frame of the command `b` went by; `st` is the byte shifted in. -/
def Commanded (b st : Byte) (s t : State) : Prop :=
  t.trace = .csnDeassert :: .xchg b (some st) :: .csnAssert :: s.trace ∧
    t.cache = s.cache ∧ t.csn = .deasserted ∧ t.ce = s.ce ∧ (∀ a j, t.dev.cell s.cfg a j = s.dev.cell s.cfg a j) ∧
    (s.cfg.present = false → st = s.cfg.absentByte) ∧ s.dev.FlagsStand t.dev ∧
    (s.cfg.present = true → b = s.cfg.opcFlushTx → t.dev.txFifo = []) ∧
    (s.cfg.present = true → b = s.cfg.opcFlushRx → s.ce = .low → t.dev.rxFifo = []) ∧
    (s.cfg.present = true → Quiet s → t.dev = (s.dev.command s.cfg b).inFrame .none ∧ st = s.dev.statusByte s.cfg)

theorem writeCommandBody_commanded {b : Byte} {s : State} (hm : s.cfg.mapped = true)
    (hb : b = s.cfg.opcFlushTx ∨ b = s.cfg.opcFlushRx ∨ b = s.cfg.opcNop) (hx : s.port.left = none) :
    ∃ t st, (writeCommandBody b).run s = .ok st t ∧ Frame s t ∧ Commanded b st s t := by
  obtain ⟨t, st, hr, hf, htr, hcell, habs, hq⟩ := writeCommandBody_ok b hm hb hx
  obtain ⟨-, rfl⟩ := EStateM.Result.ok.inj ((writeCommandBody_run b hx).symm.trans hr)
  exact ⟨_, st, hr, hf, htr, hf.cache, hf.csn, hf.ce, hcell _, habs, commandFrame_flagsStand hm hb, commandFrame_txFifo hm,
    commandFrame_rxFifo hm, hq⟩

/-- An operation that is the command `b` as a sub-operation. -/
theorem flush_returns {i : Instr} {b : Byte} {s : State}
    (he : exec i s = serve (.op i) (guarded accepts (writeCommand b >>= fun a => pure (Reply.byte a))) s)
    (hb : b = s.cfg.opcFlushTx ∨ b = s.cfg.opcFlushRx ∨ b = s.cfg.opcNop) (h : Ready s) :
    ∃ t st, Returns i s (Reply.byte st) t ∧ Commanded b st s t := by
  obtain ⟨t, st, hr, hf, hc⟩ :=
    writeCommandBody_commanded (s := (begun (.op i) s).entering (.op (.writeCommand b))) h.2.2 hb h.2.1
  exact ⟨_, st, request_returns he h.1 rfl (call_ok hr) hf.work.called.work, hc⟩

theorem writeCommand_returns {b : Byte} {s : State}
    (hb : b = s.cfg.opcFlushTx ∨ b = s.cfg.opcFlushRx ∨ b = s.cfg.opcNop) (h : Ready s) :
    ∃ t st, Returns (.writeCommand b) s (Reply.byte st) t ∧ Commanded b st s t := by
  obtain ⟨t, st, hr, hf, hc⟩ := writeCommandBody_commanded (s := begun (.op (.writeCommand b)) s) h.2.2 hb h.2.1
  exact ⟨_, st, request_returns rfl h.1 ((commandRefusal_eq b _).trans (if_pos hb)) hr hf.work, hc⟩

end Sys2Proof.Machine

namespace Sys2Proof

open Sys2Proof.Machine

/-- Settles O20: all three operations are one frame of the command. -/
theorem commandsReturnStatus : Obligations.CommandsReturnStatus := by
  intro s i b hi h
  have returns : ∃ t st, Returns i s (Reply.byte st) t ∧ Commanded b st s t := by
    obtain ⟨rfl, hb⟩ | ⟨rfl, hb⟩ | ⟨rfl, hb⟩ := hi
    · exact writeCommand_returns hb h
    · exact flush_returns (hb ▸ rfl) (.inl hb) h
    · exact flush_returns (hb ▸ rfl) (.inr (.inl hb)) h
  obtain ⟨t, st, hret, htr, hca, hn, hce, hcell, habs, ⟨hrecv, hsent, hmax⟩, htx, hrx, hq⟩ := returns
  refine ⟨t, st, hret, htr, hca, hn, hce, hcell, habs, hrecv, hsent, hmax, htx, hrx, fun hp hquiet => ?_⟩
  obtain ⟨hd, hst⟩ := hq hp hquiet
  exact ⟨hst, by rw [hd, command_fifos h.2.2 b hquiet.2]; rfl⟩

end Sys2Proof
end

section
/-! The field accessors (41_transceiver_config.md R150), bit by bit: the mask of a field is the bits `lo` to `hi`. -/

namespace Sys2Proof.Machine

/-- The mask of the lowest `n` bits. -/
theorem onesBelow_bit : ∀ n ≤ 8, ∀ j < 8, (((1 : Byte) <<< n) - 1).getLsbD j = decide (j < n) := by decide

theorem fieldMask_bit {hi lo : Nat} (hl : lo ≤ hi) (hh : hi ≤ 7) {j : Nat} (hj : j < 8) :
    (fieldMask hi lo).getLsbD j = decide (lo ≤ j ∧ j ≤ hi) := by
  rw [fieldMask, BitVec.getLsbD_shiftLeft, onesBelow_bit _ (by omega) _ (by omega), decide_eq_true hj, Bool.true_and,
    ← decide_not, ← Bool.decide_and]
  exact decide_eq_decide.mpr (by omega)

theorem getField_bit (v : Byte) {hi lo : Nat} (hl : lo ≤ hi) (hh : hi ≤ 7) {i : Nat} (hi8 : i < 8) :
    (getField v hi lo).getLsbD i = (decide (i ≤ hi - lo) && v.getLsbD (lo + i)) := by
  rw [getField, BitVec.getLsbD_ushiftRight, BitVec.getLsbD_and]
  by_cases h : lo + i < 8
  · rw [fieldMask_bit hl hh h, Bool.and_comm]
    congr 1
    exact decide_eq_decide.mpr (by omega)
  · rw [BitVec.getLsbD_of_ge v _ (by omega), Bool.false_and, Bool.and_false]

theorem setField_bit (v f : Byte) {hi lo : Nat} (hl : lo ≤ hi) (hh : hi ≤ 7) {i : Nat} (hi8 : i < 8) :
    (setField v hi lo f).getLsbD i = if lo ≤ i ∧ i ≤ hi then f.getLsbD (i - lo) else v.getLsbD i := by
  rw [setField, BitVec.getLsbD_or, BitVec.getLsbD_and, BitVec.getLsbD_and, BitVec.getLsbD_not, BitVec.getLsbD_shiftLeft,
    fieldMask_bit hl hh hi8]
  by_cases h : lo ≤ i ∧ i ≤ hi
  · simp [h, hi8, show ¬ i < lo by omega]
  · simp [h, hi8]

end Sys2Proof.Machine

namespace Sys2Proof

open Sys2Proof.Machine

/-- Settles O50: a field accessor is its mask, and the mask is the bits `lo` to `hi`. -/
theorem fieldAccessors : Obligations.FieldAccessors :=
  fun v f _ _ hl hh _ hi => ⟨getField_bit v hl hh hi, setField_bit v f hl hh hi⟩

end Sys2Proof
end

section
/-! WriteValidated (41_transceiver_config.md R156, R157): what the request returns, and what it leaves. -/

namespace Sys2Proof.Machine

/-- WriteValidated: the store is the device's, if there is one, and the byte read back is what the store left. -/
theorem writeValidated_returns {a : Byte} (ha : a ≤ Config.regHi) (d : Byte) {s : State} (h : Ready s) :
    ∃ t st v, Returns (.writeValidated a d) s (Reply.failIf (decide (v ≠ d))) t ∧
      t.trace = .csnDeassert :: .xchg Config.dummy (some v) :: .xchg (readOpcode a) (some st) :: .csnAssert ::
        .csnDeassert :: .xchg d none :: .xchg (writeOpcode a) none :: .csnAssert :: s.trace ∧
      (∀ b, t.cached b = if v = d ∧ b = a then some d else s.cached b) ∧ t.csn = .deasserted ∧ t.ce = s.ce ∧
      (s.cfg.present = false → v = s.cfg.absentByte) ∧
      (s.cfg.present = true → ∀ b i, t.dev.cell s.cfg b i = (s.dev.store s.cfg a 0 d).cell s.cfg b i) ∧
      (s.cfg.present = true → a ≠ s.cfg.regStatus →
        ∀ b, (s.dev.store s.cfg a 0 d).cell s.cfg a 0 = some (.known b) → v = b) := by
  obtain ⟨t, st, v, hr, hw, hca, htr, habs, hcell, hval, -⟩ :=
    writeValidatedBody_ok a d ha (s := begun (.op (.writeValidated a d)) s) h.2.1
  exact ⟨_, st, v, request_returns rfl h.1 (addressRefusal_none ha _) hr hw, htr, cached_validated ha hca, hw.csn, hw.ce, habs,
    hcell, hval⟩

end Sys2Proof.Machine

namespace Sys2Proof

open Sys2Proof.Machine

/-- Settles O22: the byte read back is what the store of the write frame left. -/
theorem writeValidatedChecksReadBack : Obligations.WriteValidatedChecksReadBack := by
  intro s a d ha h
  obtain ⟨t, st, v, hret, htr, hca, hn, hce, habs, hcell, hval⟩ := writeValidated_returns ha d h
  have hreply : Reply.failIf (decide (v ≠ d)) = { outcome := if v = d then .ok else .fail, d := 0, buf := [] } := by
    by_cases e : v = d <;> simp [Reply.failIf, e]
  refine ⟨t, st, v, hreply ▸ hret, htr, hca, hn, hce, habs, fun htakes hr hst hl => ?_, fun hp hdrop hst b hb => ?_⟩
  · have hd := cell_store_takes_eq (d := s.dev) htakes.2 hr hst ha hl
    exact ⟨hval htakes.1 hst d hd, (hcell htakes.1 a 0).trans hd⟩
  · have hd := (cell_store_dropped h.2.2 (hdrop.imp_right .inl) d s.dev a 0).trans hb
    exact ⟨hval hp hst b hd, (hcell hp a 0).trans hd⟩

end Sys2Proof
end

section
/-! Init as a computation (41_transceiver_config.md R159 to R166), whatever the other agents do. Its parts leave tokens and the
result code (`Ran`), bytes in the device (`Stored`) and bytes in the cache (`Recorded`); a part of Init goes on from what the
parts before it left. -/

namespace Sys2Proof.Machine

/-! A computation that returns. -/

theorem Spec.ofOk {α : Type} {P : State → Prop} {m : Eng α} {Q : α → State → Prop} {E : Wait → State → Prop}
    (h : ∀ s, P s → ∃ a t, m.run s = .ok a t ∧ Q a t) : Spec P m Q E := fun s hs => by
  obtain ⟨a, t, hr, hq⟩ := h s hs
  rw [hr]; exact hq

theorem Spec.returns {α : Type} {P : State → Prop} {m : Eng α} {Q : α → State → Prop}
    (h : Spec P m Q fun _ _ => False) {s : State} (hs : P s) : ∃ a t, m.run s = .ok a t ∧ Q a t := by
  have := h s hs
  cases hr : m.run s with
  | ok a t => rw [hr] at this; exact ⟨a, t, rfl, this⟩
  | error w t => rw [hr] at this; exact this.elim

/-! The engine's side. -/

/-- The result code as far as it has been accumulated (10_state.md R25). -/
def State.resultCode (s : State) : Byte := (topLocals s.seq).rc

theorem topLocals_advance (q : List Position) : topLocals (advance q) = topLocals q := by cases q <;> rfl

theorem Called.resultCode {s t : State} (h : Called s t) : t.resultCode = s.resultCode := by
  rw [State.resultCode, h.seq, topLocals_advance]; rfl

theorem counted_resultCode (f : Locals → Locals) {s : State} (h : SameCallers s.seq s.seq) :
    (counted f s).resultCode = (f (topLocals s.seq)).rc := by
  obtain ⟨_, p, cs, _, hq⟩ := h
  rw [State.resultCode, counted, State.withTop, hq]; rfl

theorem SameCallers.trans {p q r : List Position} (h : SameCallers p q) (k : SameCallers q r) : SameCallers p r := by
  obtain ⟨x, y, cs, rfl, rfl⟩ := h
  obtain ⟨_, z, _, e, rfl⟩ := k
  obtain ⟨rfl, rfl⟩ := List.cons.inj e
  exact ⟨x, z, _, rfl, rfl⟩

/-- From `s` to `t`, inside one operation, these tokens were added, oldest first; the bytes shifted in are left out. -/
structure Ran (s : State) (tokens : List TraceEvent) (t : State) : Prop extends Kept s t where
  inside : SameCallers s.seq t.seq
  csn : t.csn = if .csnDeassert ∈ tokens then .deasserted else s.csn
  trace : t.trace.map TraceEvent.outline = tokens.reverse ++ s.trace.map TraceEvent.outline

theorem Ran.refl {s : State} (h : SameCallers s.seq s.seq) : Ran s [] s := ⟨.refl s, h, rfl, rfl⟩

theorem Ran.trans {s t u : State} {l l' : List TraceEvent} (h : Ran s l t) (k : Ran t l' u) : Ran s (l ++ l') u where
  toKept := h.toKept.trans k.toKept
  inside := h.inside.trans k.inside
  csn := by
    rw [k.csn, h.csn]
    by_cases h' : .csnDeassert ∈ l' <;> simp [h']
  trace := by rw [k.trace, h.trace, List.reverse_append, List.append_assoc]

/-- A step of the engine itself adds no token. -/
theorem Ran.aside {s t u : State} {l : List TraceEvent} (h : Ran s l t) (hk : Kept t u) (hi : SameCallers t.seq u.seq)
    (hn : u.csn = t.csn) (ht : u.trace = t.trace) : Ran s l u :=
  ⟨h.toKept.trans hk, h.inside.trans hi, hn.trans h.csn, ht ▸ h.trace⟩

/-- The operation is still the innermost one. -/
theorem Ran.placed {s t : State} {l : List TraceEvent} (h : Ran s l t) : SameCallers t.seq t.seq := by
  obtain ⟨_, p, cs, _, h⟩ := h.inside
  rw [h]; exact .start

/-- An operation called adds its tokens. -/
theorem Called.ran {s t : State} {l : List TraceEvent} (h : Called s t) (hs : SameCallers s.seq s.seq)
    (hn : .csnDeassert ∈ l) (ht : t.trace.map TraceEvent.outline = l.reverse ++ s.trace.map TraceEvent.outline) : Ran s l t :=
  ⟨h.toKept, by rw [h.seq]; exact hs.advance, by rw [h.csn, if_pos hn], ht⟩

theorem waited_ran (us : Nat) {s : State} (hs : SameCallers s.seq s.seq) : Ran s [.wait us] (waited us s) where
  toKept := (Bus.after rfl rfl rfl rfl rfl rfl rfl rfl id rfl rfl rfl rfl id fun _ => rfl : Bus s (waited us s)).toKept
  inside := (waited_went us s).callers _ hs
  csn := by simp
  trace := by rw [waited_trace]; rfl

theorem waited_resultCode (us : Nat) (s : State) : (waited us s).resultCode = s.resultCode := by
  show (topLocals (advance (gap s).seq)).rc = _
  rw [gap_seq, topLocals_advance]; rfl

/-! The device's side. -/

/-- What the stores of one frame leave in their register depends only on what was in that register. -/
theorem storeAll_cell_congr_at {c : Cfg} {a : Byte} (l : List Byte) (i : Nat) {d e : Device}
    (h : ∀ j, e.cell c a j = d.cell c a j) (j : Nat) : (e.storeAll c a i l).cell c a j = (d.storeAll c a i l).cell c a j := by
  induction l generalizing i d e with
  | nil => exact h j
  | cons x l ih =>
    refine ih (i + 1) fun j => ?_
    unfold Device.store
    split_ifs <;> simp [Device.cell_setCell, Device.cell_unsettle, h]

/-- From `s` to `t` each of these registers was written by one frame, latest first, and holds what the device makes of its data
bytes; any other register holds what it held. -/
structure Stored (s : State) (writes : List (Byte × List Byte)) (t : State) : Prop where
  written : s.cfg.present = true → ∀ w ∈ writes, ∀ i,
    t.dev.cell s.cfg w.1 i = (s.dev.storeAll s.cfg w.1 0 w.2).cell s.cfg w.1 i
  others : ∀ a ∉ writes.map Prod.fst, ∀ i, t.dev.cell s.cfg a i = s.dev.cell s.cfg a i

theorem Stored.congr {s t u : State} {ws : List (Byte × List Byte)} (h : Stored s ws t)
    (hc : ∀ k a i, u.dev.cell k a i = t.dev.cell k a i) : Stored s ws u :=
  ⟨fun hp w hw i => (hc _ _ i).trans (h.written hp w hw i), fun a ha i => (hc _ a i).trans (h.others a ha i)⟩

/-- One more register written. -/
theorem Stored.cons {s t u : State} {ws : List (Byte × List Byte)} {a : Byte} {l : List Byte} (h : Stored s ws t)
    (ha : a ∉ ws.map Prod.fst) (habs : s.cfg.present = false → u.dev = t.dev)
    (hcell : s.cfg.present = true → ∀ b i, u.dev.cell s.cfg b i = (t.dev.storeAll s.cfg a 0 l).cell s.cfg b i) :
    Stored s ((a, l) :: ws) u := by
  have apart : ∀ b ≠ a, ∀ i, u.dev.cell s.cfg b i = t.dev.cell s.cfg b i := fun b hb i => by
    cases hp : s.cfg.present with
    | false => rw [habs hp]
    | true => rw [hcell hp, storeAll_other _ hb]
  refine ⟨fun hp w hw i => ?_, fun b hb i => ?_⟩
  · obtain rfl | hw := List.mem_cons.mp hw
    · rw [hcell hp, storeAll_cell_congr_at _ _ (h.others a ha)]
    · rw [apart _ (fun e => ha (e ▸ List.mem_map_of_mem hw)), h.written hp w hw]
  · rw [List.map_cons, List.mem_cons, not_or] at hb
    obtain ⟨hba, hb⟩ := hb
    rw [apart b hba, h.others b hb]

/-! The cache's side. -/

/-- The byte `v` is what a read of register `a` answers, where that is settled. -/
def Device.Answers (c : Cfg) (d : Device) (a v : Byte) : Prop :=
  (c.present = false → v = c.absentByte) ∧
    (c.present = true → a ≠ c.regStatus → ∀ b, d.cell c a 0 = some (.known b) → v = b)

theorem Device.Answers.congr {c : Cfg} {d e : Device} {a v : Byte} (h : d.Answers c a v)
    (hc : c.present = true → e.cell c a 0 = d.cell c a 0) : e.Answers c a v :=
  ⟨h.1, fun hp hst b hb => h.2 hp hst b ((hc hp).symm.trans hb)⟩

/-- A validated write of register and value `p` read back a byte `v`, after a baseline read of a byte `x`: bit `k` of the result
code says whether `v` is another byte than the value, and the cache holds the value on a match, else the baseline. -/
def Tried (s : State) (p : Byte × Byte) (k : Nat) (rc : Byte) (t : State) : Prop :=
  ∃ v x, rc.getLsbD k = decide (v ≠ p.2) ∧ t.cached p.1 = some (if v = p.2 then v else x) ∧
    s.dev.Answers s.cfg p.1 x ∧ (s.dev.store s.cfg p.1 0 p.2).Answers s.cfg p.1 v

/-- From `s` to `t` the validated writes of this list were tried, in order, after a baseline read of every register. -/
structure Recorded (s : State) (l : List (Byte × Byte)) (rc : Byte) (t : State) : Prop where
  tried : ∀ k p, l[k]? = some p → Tried s p k rc t
  clear : ∀ k, l.length ≤ k → rc.getLsbD k = false
  baseline : ∀ a ≤ Config.regHi, a ∉ l.map Prod.fst → ∃ x, t.cached a = some x ∧ s.dev.Answers s.cfg a x

theorem Recorded.congr {s t u : State} {l : List (Byte × Byte)} {rc rc' : Byte} (h : Recorded s l rc t) (hx : u.cache = t.cache)
    (hr : rc' = rc) : Recorded s l rc' u := by
  subst hr
  have hx := State.cached_congr hx
  exact ⟨fun k p hp => by simpa only [Tried, hx] using h.tried k p hp, h.clear, by simpa only [hx] using h.baseline⟩

/-- The result code with one more bit. -/
theorem resultCode_bit (rc : Byte) (f : Bool) {n : Nat} (hn : n < 8) (k : Nat) :
    (rc ||| flagBit f n).getLsbD k = (rc.getLsbD k || f && decide (k = n)) := by
  by_cases hk : k < 8
  · rw [BitVec.getLsbD_or, flagBit_bit _ _ hk]
  · rw [BitVec.getLsbD_of_ge _ _ (by omega), BitVec.getLsbD_of_ge _ _ (by omega), decide_eq_false (by omega : k ≠ n),
      Bool.and_false, Bool.or_false]

/-- One more validated write tried. -/
theorem Recorded.snoc {s t u : State} {l : List (Byte × Byte)} {rc a d v : Byte} (h : Recorded s l rc t) (ha : a ≤ Config.regHi)
    (hl : a ∉ l.map Prod.fst) (h8 : l.length < 8) (hx : ∀ b, u.cached b = if v = d ∧ b = a then some d else t.cached b)
    (hv : (s.dev.store s.cfg a 0 d).Answers s.cfg a v) :
    Recorded s (l ++ [(a, d)]) (rc ||| flagBit (decide (v ≠ d)) l.length) u := by
  have other : ∀ b ≠ a, u.cached b = t.cached b := fun b hb => by rw [hx, if_neg fun e => hb e.2]
  refine ⟨fun k p hp => ?_, fun k hk => ?_, fun b hb hn => ?_⟩
  · rcases Nat.lt_trichotomy k l.length with hk | rfl | hk
    · rw [List.getElem?_append_left hk] at hp
      obtain ⟨w, x, hbit, hc, hw⟩ := h.tried k p hp
      have hpa : p.1 ≠ a := fun e => hl (e ▸ List.mem_map_of_mem (List.mem_of_getElem? hp))
      refine ⟨w, x, ?_, (other _ hpa).trans hc, hw⟩
      rw [resultCode_bit _ _ h8, hbit, decide_eq_false hk.ne, Bool.and_false, Bool.or_false]
    · obtain rfl : (a, d) = p := by simpa using hp
      obtain ⟨x, hc, hx'⟩ := h.baseline a ha hl
      refine ⟨v, x, ?_, ?_, hx', hv⟩
      · rw [resultCode_bit _ _ h8, h.clear _ (Nat.le_refl _), decide_eq_true rfl, Bool.and_true, Bool.false_or]
      · rw [hx, hc]
        by_cases e : v = d <;> simp [e]
    · rw [List.getElem?_eq_none (by rw [List.length_append, List.length_singleton]; omega)] at hp
      cases hp
  · rw [List.length_append, List.length_singleton] at hk
    rw [resultCode_bit _ _ h8, h.clear k (by omega), decide_eq_false (by omega : k ≠ l.length), Bool.and_false, Bool.or_false]
  · rw [List.map_append, List.mem_append, not_or] at hn
    obtain ⟨x, hc, hv'⟩ := h.baseline b hb hn.1
    exact ⟨x, (other b fun e => hn.2 (by simp [e])).trans hc, hv'⟩

/-- In the end every entry is a byte, without a device always the same. -/
theorem Recorded.filled {s t : State} {l : List (Byte × Byte)} {rc : Byte} (h : Recorded s l rc t) {a : Byte} (ha : a ≤ Config.regHi) :
    ∃ v, t.cached a = some v ∧ (s.cfg.present = false → v = s.cfg.absentByte) := by
  by_cases hl : a ∈ l.map Prod.fst
  · obtain ⟨p, hp, rfl⟩ := List.mem_map.mp hl
    obtain ⟨k, hk⟩ := List.mem_iff_getElem?.mp hp
    obtain ⟨v, x, -, hc, hx, hv⟩ := h.tried k p hk
    exact ⟨_, hc, fun hp => by rw [hx.1 hp, hv.1 hp, ite_self]⟩
  · obtain ⟨x, hc, hx⟩ := h.baseline a ha hl
    exact ⟨x, hc, hx.1⟩

/-! The parts of Init. -/

/-- From `s` to `t` Init went on: its tokens, the frames that wrote registers, the validated writes tried. -/
structure Progress (s : State) (writes : List (Byte × List Byte)) (l : List (Byte × Byte)) (tokens : List TraceEvent) (t : State) :
    Prop extends Ran s tokens t where
  stored : Stored s writes t
  recorded : Recorded s l t.resultCode t
  tries : ∀ p ∈ l, p.1 ∈ writes.map Prod.fst

/-- The baseline read (41_transceiver_config.md R160): every entry of the list is cached, no register is written. -/
theorem readBaseline_ran (l : List Byte) (hl : ∀ a ∈ l, a ≤ Config.regHi) {s : State} (hx : s.port.left = none)
    (hs : SameCallers s.seq s.seq) :
    ∃ t, (readBaseline l).run s = .ok () t ∧ Ran s (l.flatMap fun a => frameTokens [readOpcode a, Config.dummy]) t ∧
      t.resultCode = s.resultCode ∧ (∀ k b i, t.dev.cell k b i = s.dev.cell k b i) ∧
      (∀ a ∉ l, t.cached a = s.cached a) ∧ ∀ a ∈ l, ∃ x, t.cached a = some x ∧ s.dev.Answers s.cfg a x := by
  induction l generalizing s with
  | nil => exact ⟨s, rfl, .refl hs, rfl, fun _ _ _ => rfl, fun _ _ => rfl, nofun⟩
  | cons a l ih =>
    have ha := hl a List.mem_cons_self
    obtain ⟨t, st, v, hr, hc, hca, htr, hin, hcell, habs, hval, -⟩ := readRegister_ok a ha hx
    have hread : Ran s (frameTokens [readOpcode a, Config.dummy]) t :=
      hc.ran hs (by simp [frameTokens]) (by simp [htr, frameTokens, TraceEvent.outline])
    have hcached : Ran s (frameTokens [readOpcode a, Config.dummy]) (t.cachedShifted a).advanced :=
      hread.aside ⟨rfl, rfl, rfl, rfl, rfl, rfl, rfl, id, fun h => ⟨h, rfl, rfl, rfl⟩, fun _ => rfl⟩ hread.placed.advance rfl rfl
    have entry : ∀ b, (t.cachedShifted a).advanced.cached b = if b = a then some v else s.cached b := fun b => by
      show (t.setCached a t.port.shiftIn).cached b = _
      rw [State.cached_setCached, if_pos ha, hin, State.cached_congr hca]
      simp only [eq_comm]
    obtain ⟨u, hr', hran, hrc, hcell', hout, hin'⟩ := ih (fun b hb => hl b (List.mem_cons_of_mem a hb))
      (s := (t.cachedShifted a).advanced) (hc.complete hx) hcached.placed
    refine ⟨u, ?_, hcached.trans hran, ?_, fun k b i => (hcell' k b i).trans (hcell k b i), fun b hb => ?_, fun b hb => ?_⟩
    · simp only [readBaseline, EStateM.run_bind, hr]
      exact hr'
    · rw [hrc, ← hc.resultCode]
      exact congrArg Locals.rc (topLocals_advance _)
    · rw [List.mem_cons, not_or] at hb
      rw [hout b hb.2, entry, if_neg hb.1]
    · by_cases hbl : b ∈ l
      · obtain ⟨x, hx, hans⟩ := hin' b hbl
        have hans : t.dev.Answers t.cfg b x := hans
        rw [hc.cfg] at hans
        exact ⟨x, hx, hans.congr fun _ => (hcell _ _ _).symm⟩
      · obtain rfl := (List.mem_cons.mp hb).resolve_right hbl
        exact ⟨v, by rw [hout b hbl, entry, if_pos rfl], habs, hval⟩

section

variable {s : State} {ws : List (Byte × List Byte)} {l : List (Byte × Byte)} {tokens : List TraceEvent}

/-- After the baseline read nothing has been written yet. -/
theorem readBaseline_progress (hx : s.port.left = none) (hs : SameCallers s.seq s.seq) (hr : s.resultCode = 0) :
    Spec (· = s) (readBaseline baselineAddresses)
      (fun _ => Progress s [] [] (baselineAddresses.flatMap fun a => frameTokens [readOpcode a, Config.dummy]))
      fun _ _ => False :=
  Spec.ofOk fun _ hu => by
    subst hu
    obtain ⟨t, hrun, hran, hrc, hcell, -, hin⟩ := readBaseline_ran baselineAddresses (by decide) hx hs
    exact ⟨(), t, hrun, hran, ⟨fun _ => nofun, fun _ _ i => hcell _ _ i⟩,
      ⟨fun _ _ => nofun, fun k _ => by rw [hrc, hr]; exact BitVec.getLsbD_zero, fun a ha _ => hin a (mem_baseline ha)⟩, nofun⟩

/-- A validated write of a register not written yet (41_transceiver_config.md R161). -/
theorem configure_progress (hx : s.port.left = none) {k : Nat} {a d : Byte} (ha : a ≤ Config.regHi) (hk : k = l.length) (h8 : k < 8)
    (hw : a ∉ ws.map Prod.fst) :
    Spec (Progress s ws l tokens) (configure k a d)
      (fun _ => Progress s ((a, [d]) :: ws) (l ++ [(a, d)]) (tokens ++ validatedTokens (a, d))) fun _ _ => False :=
  Spec.ofOk fun u h => by
    obtain ⟨t, st, v, hr, hc, hca, htr, habs, hcell, hval, -⟩ := writeValidated_ok a d ha (h.complete hx)
    have hwrite : Ran u (validatedTokens (a, d)) t :=
      hc.ran h.placed (by simp [validatedTokens, frameTokens])
        (by simp [htr, validatedTokens, frameTokens, TraceEvent.outline, readOpcode, writeOpcode, Config.dummy,
          Config.opcRRegisterBase, Config.opcWRegisterBase])
    have hl : a ∉ l.map Prod.fst := fun hm => by
      obtain ⟨p, hp, rfl⟩ := List.mem_map.mp hm
      exact hw (h.tries p hp)
    rw [h.cfg] at habs hcell hval
    have hans : (s.dev.store s.cfg a 0 d).Answers s.cfg a v :=
      ⟨habs, fun hp hst b hb => hval hp hst b ((storeAll_cell_congr_at [d] 0 (h.stored.others a hw) 0).trans hb)⟩
    subst hk
    refine ⟨(), counted (fun loc => { loc with rc := loc.rc ||| flagBit (decide (v ≠ d)) l.length }) t, ?_,
      h.toRan.trans (hwrite.aside (Kept.ofSeq t _) (hwrite.placed.mapTop _) rfl rfl),
      h.stored.cons hw (fun hp => hc.absent (h.cfg ▸ hp)) hcell, ?_, fun p hp => ?_⟩
    · simp only [configure, EStateM.run_bind, hr]; rfl
    · rw [counted_resultCode _ hwrite.placed]
      show Recorded s _ (t.resultCode ||| _) _
      rw [hc.resultCode]
      exact h.recorded.snoc ha hl h8 (cached_validated ha hca) hans
    · rcases List.mem_append.mp hp with hp | hp
      · exact List.mem_cons_of_mem _ (h.tries p hp)
      · rw [List.mem_singleton.mp hp]; exact List.mem_cons_self

/-- The settling time (41_transceiver_config.md R161). -/
theorem waitUs_progress (us : Nat) :
    Spec (Progress s ws l tokens) (waitUs us) (fun _ => Progress s ws l (tokens ++ [.wait us])) fun _ _ => False :=
  Spec.ofOk fun u h => ⟨(), waited us u, waitUs_waited us u, h.toRan.trans (waited_ran us h.placed),
    h.stored.congr (waited_cell us u), h.recorded.congr (waited_cache us u) (waited_resultCode us u), h.tries⟩

/-- WriteRegisterBurst as its callers see it (40_register_interface.md R127). -/
theorem writeRegisterBurst_ok (a : Byte) (bytes : List Byte) (ha : a ≤ Config.regHi) {s : State} (hx : s.port.left = none) :
    ∃ t, (writeRegisterBurst a bytes).run s = .ok () t ∧ Called s t ∧ t.cache = s.cache ∧
      t.trace = .csnDeassert :: ((bytes.map fun b => TraceEvent.xchg b none).reverse ++
        .xchg (writeOpcode a) none :: .csnAssert :: s.trace) ∧
      (s.cfg.present = true → ∀ b i, t.dev.cell s.cfg b i = (s.dev.storeAll s.cfg a 0 bytes).cell s.cfg b i) := by
  obtain ⟨t, hr, hf, htr, hcell, -⟩ := writeRegisterBurstBody_ok a bytes ha (s := s.entering
    (.op (.writeRegisterBurst a (BitVec.ofNat 8 Config.addrLen) (bufferOf bytes)))) hx
  exact ⟨t.leaving, call_ok hr, hf.work.called, hf.cache, htr, hcell⟩

/-- A register written, in one frame, and not read back (41_transceiver_config.md R161). -/
theorem writeRegisterBurst_progress (hx : s.port.left = none) {a : Byte} (bytes : List Byte) (ha : a ≤ Config.regHi)
    (hw : a ∉ ws.map Prod.fst) :
    Spec (Progress s ws l tokens) (writeRegisterBurst a bytes)
      (fun _ => Progress s ((a, bytes) :: ws) l (tokens ++ frameTokens (writeOpcode a :: bytes))) fun _ _ => False :=
  Spec.ofOk fun u h => by
    obtain ⟨t, hr, hc, hca, htr, hcell⟩ := writeRegisterBurst_ok a bytes ha (h.complete hx)
    rw [h.cfg] at hcell
    refine ⟨(), t, hr, h.toRan.trans (hc.ran h.placed (by simp [frameTokens]) ?_),
      h.stored.cons hw (fun hp => hc.absent (h.cfg ▸ hp)) hcell, h.recorded.congr hca hc.resultCode,
      fun p hp => List.mem_cons_of_mem _ (h.tries p hp)⟩
    simp [htr, frameTokens, TraceEvent.outline, Function.comp_def]

end

/-! Init. -/

/-- The frames with which Init writes registers, latest first (41_transceiver_config.md R161). -/
def initWrites (c : Cfg) : List (Byte × List Byte) :=
  [(c.regEnAa, [Config.enAaInit]), (c.regTxAddr, c.pipeAddr.toList), (c.regRfCh, [c.channel]), (c.regRxPwP0, [c.rxPwInit]),
    (c.regRfSetup, [c.rfSetup]), (c.regSetupAw, [c.awInit]), (c.regSetupRetr, [c.setupRetrInit]), (c.regConfig, [c.configInit])]

theorem mem_initWrites {c : Cfg} {a : Byte} : a ∈ (initWrites c).map Prod.fst ↔ a ∈ configuredRegisters c := by
  simp only [initWrites, configuredRegisters, List.map_cons, List.map_nil, List.mem_cons, List.not_mem_nil]
  tauto

/-- No register is written twice. -/
theorem initWrites_nodup {c : Cfg} (hm : c.mapped = true) : ((initWrites c).map Prod.fst).Nodup := by
  have h := named_nodup hm
  simp only [Registers.named, List.nodup_cons, List.mem_cons, List.not_mem_nil] at h
  simp only [initWrites, List.map_cons, List.map_nil, List.nodup_cons, List.mem_cons, List.not_mem_nil]
  grind

theorem baselineTokens_eq : (baselineAddresses.flatMap fun a => frameTokens [readOpcode a, Config.dummy]) =
    (List.range 30).flatMap fun a => frameTokens [BitVec.ofNat 8 a, 0xFF] := by decide

/-- After the baseline read Init goes through the tabulated sequence to its end (41_transceiver_config.md R161, R163). -/
theorem initRest_progress {s : State} (hm : s.cfg.mapped = true) (hx : s.port.left = none) :
    Spec (Progress s [] [] (baselineAddresses.flatMap fun a => frameTokens [readOpcode a, Config.dummy])) (initRest s.cfg)
      (fun rc t => ∃ u, Progress s (initWrites s.cfg) (initValues s.cfg) (initTokens s.cfg) u ∧ rc = u.resultCode ∧
        t = u.nowInitialised.advanced) fun _ _ => False := by
  have hd := initWrites_nodup hm
  simp only [initWrites, List.map_cons, List.map_nil, List.nodup_cons] at hd
  obtain ⟨h7, h6, h5, h4, h3, h2, h1, h0, -⟩ := hd
  refine Spec.bind (configure_progress hx (named_le hm regConfig_named) rfl (by decide) h0) fun _ => ?_
  refine Spec.bind (waitUs_progress _) fun _ => ?_
  refine Spec.bind (configure_progress hx (named_le hm regSetupRetr_named) rfl (by decide) h1) fun _ => ?_
  refine Spec.bind (configure_progress hx (named_le hm regSetupAw_named) rfl (by decide) h2) fun _ => ?_
  refine Spec.bind (configure_progress hx (named_le hm regRfSetup_named) rfl (by decide) h3) fun _ => ?_
  refine Spec.bind (configure_progress hx (named_le hm regRxPwP0_named) rfl (by decide) h4) fun _ => ?_
  refine Spec.bind (configure_progress hx (named_le hm regRfCh_named) rfl (by decide) h5) fun _ => ?_
  refine Spec.bind (writeRegisterBurst_progress hx _ (named_le hm regTxAddr_named) h6) fun _ => ?_
  refine Spec.bind (configure_progress hx (named_le hm regEnAa_named) rfl (by decide) h7) fun _ => ?_
  refine Spec.ofOk fun u h => ⟨_, _, rfl, u, ?_, congrArg Locals.rc (topLocals_advance _), rfl⟩
  simpa [initWrites, initTokens, initValues_eq hm, baselineTokens_eq, writeOpcode, Config.opcWRegisterBase] using h

/-- What Init does: the whole sequence, then `initialised` (41_transceiver_config.md R164). -/
theorem initBody_ok {s : State} (hm : s.cfg.mapped = true) (hx : s.port.left = none) (hs : SameCallers s.seq s.seq)
    (hr : s.resultCode = 0) : ∃ u, (initBody s.cfg).run s = .ok u.resultCode u.nowInitialised.advanced ∧
      Progress s (initWrites s.cfg) (initValues s.cfg) (initTokens s.cfg) u := by
  obtain ⟨_, _, hrun, u, hu, rfl, rfl⟩ :=
    (Spec.bind (readBaseline_progress hx hs hr) fun _ => initRest_progress hm hx).returns rfl
  exact ⟨u, hrun, hu⟩

/-- Init, as a request. -/
theorem init_returns {s : State} (h : Ready s) :
    ∃ t rc, Returns .init s (Reply.resultCode rc) t ∧ t.initialised = true ∧ t.csn = .deasserted ∧ t.ce = s.ce ∧
      t.trace.map TraceEvent.outline = (initTokens s.cfg).reverse ++ s.trace.map TraceEvent.outline ∧
      Stored s (initWrites s.cfg) t ∧ Recorded s (initValues s.cfg) rc t := by
  obtain ⟨u, hr, hu⟩ := initBody_ok (s := begun (.op .init) s) h.2.2 h.2.1 .start rfl
  refine ⟨_, u.resultCode, returns_of (t := u.nowInitialised.advanced) rfl h.1 ?_ hu.inside.advance, rfl, ?_, hu.ce, hu.trace,
    ⟨hu.stored.written, hu.stored.others⟩, ⟨hu.recorded.tried, hu.recorded.clear, hu.recorded.baseline⟩⟩
  · have hrun : (initBody s.cfg).run (begun (.op .init) s) = .ok u.resultCode u.nowInitialised.advanced := hr
    rw [EStateM.run_bind, hrun]
    rfl
  · exact hu.csn.trans (if_pos (by simp [initTokens, initValues, validatedTokens, frameTokens]))

/-! The frames of Init. -/

/-- What is shifted in does not count. -/
theorem framesOpened_outline (l : List TraceEvent) : framesOpened (l.map TraceEvent.outline) = framesOpened l := by
  induction l with
  | nil => rfl
  | cons e l ih =>
    simp only [framesOpened, List.map_cons, List.count_cons] at ih ⊢
    rw [ih]
    cases e <;> rfl

theorem framesOpened_frame (bytes : List Byte) : framesOpened (frameTokens bytes) = 1 := by
  simp [framesOpened, frameTokens, List.count_eq_zero]

theorem framesOpened_append (l l' : List TraceEvent) : framesOpened (l ++ l') = framesOpened l + framesOpened l' :=
  List.count_append

theorem framesOpened_validated (l : List (Byte × Byte)) : framesOpened (l.flatMap validatedTokens) = 2 * l.length := by
  induction l with
  | nil => rfl
  | cons p l ih =>
    rw [List.flatMap_cons, framesOpened_append, ih, validatedTokens, framesOpened_append, framesOpened_frame, framesOpened_frame,
      List.length_cons, Nat.mul_succ, Nat.add_comm]

/-- Thirty reads, two frames for each of the seven validated writes, one for the address. -/
theorem framesOpened_init (c : Cfg) : framesOpened (initTokens c) = 45 := by
  have baseline : framesOpened ((List.range 30).flatMap fun a => frameTokens [BitVec.ofNat 8 a, 0xFF]) = 30 := by decide
  have settle : framesOpened [.wait c.tSettle] = 0 := rfl
  rw [initTokens]
  simp only [framesOpened_append, baseline, settle, framesOpened_frame, framesOpened_validated]
  rfl

/-! The registers Init validates, on a present device. -/

/-- A value is the one data byte of its frame. -/
theorem mem_initWrites_of_value {c : Cfg} (hm : c.mapped = true) {p : Byte × Byte} (hp : p ∈ initValues c) :
    (p.1, [p.2]) ∈ initWrites c := by
  rw [initValues_eq hm] at hp
  simp only [List.mem_cons, List.not_mem_nil, or_false] at hp
  rcases hp with rfl | rfl | rfl | rfl | rfl | rfl | rfl <;> simp [initWrites]

section

variable {s t : State} {rc : Byte} {k : Nat} {v : Byte × Byte} (hp : s.cfg.present = true) (hl : s.cfg.legal = true)
  (hk : (initValues s.cfg)[k]? = some v) (hst : Stored s (initWrites s.cfg) t) (hrec : Recorded s (initValues s.cfg) rc t)
include hp hl hk hst hrec

/-- A register that takes its write reads back the value (41_transceiver_config.md R163). -/
theorem init_taken (hs : v.1 ∉ s.cfg.stuck) :
    rc.getLsbD k = false ∧ t.dev.cell s.cfg v.1 0 = some (.known v.2) ∧ t.cached v.1 = some v.2 := by
  have hm := legal_mapped hl
  have hv := List.mem_of_getElem? hk
  obtain ⟨hlegal, -, hnamed, hstatus⟩ := initValues_legal hl v hv
  obtain ⟨b, x, hbit, hc, -, hans⟩ := hrec.tried k v hk
  have hcell := cell_store_takes_eq (d := s.dev) hs (named_writable hm hnamed) hstatus (named_le hm hnamed) (.inl hlegal)
  obtain rfl := hans.2 hp hstatus v.2 hcell
  exact ⟨hbit.trans (decide_eq_false (not_not.mpr rfl)), (hst.written hp _ (mem_initWrites_of_value hm hv) 0).trans hcell,
    hc.trans (by rw [if_pos rfl])⟩

/-- One that drops it reads back what it held (41_transceiver_config.md R165, 45_device_interpreter.md R264). -/
theorem init_dropped (hs : v.1 ∈ s.cfg.stuck) {b : Byte} (hb : s.dev.cell s.cfg v.1 0 = some (.known b)) :
    rc.getLsbD k = decide (b ≠ v.2) ∧ t.dev.cell s.cfg v.1 0 = some (.known b) ∧ t.cached v.1 = some b := by
  have hv := List.mem_of_getElem? hk
  obtain ⟨-, -, -, hstatus⟩ := initValues_legal hl v hv
  obtain ⟨w, x, hbit, hc, hx, hw⟩ := hrec.tried k v hk
  have hcell : (s.dev.store s.cfg v.1 0 v.2).cell s.cfg v.1 0 = some (.known b) := by rw [Device.store_stuck hs, hb]
  obtain rfl := hw.2 hp hstatus b hcell
  obtain rfl := hx.2 hp hstatus _ hb
  exact ⟨hbit, (hst.written hp _ (mem_initWrites_of_value (legal_mapped hl) hv) 0).trans hcell, by rw [hc, ite_self]⟩

end

end Sys2Proof.Machine

namespace Sys2Proof

open Sys2Proof.Machine

/-- Settles O23: the tokens of Init do not depend on what is read. -/
theorem initRunsTheFullSequence : Obligations.InitRunsTheFullSequence := by
  intro s h
  obtain ⟨t, rc, hret, hi, hn, hce, htr, -, hrec⟩ := init_returns h
  refine ⟨t, rc, hret, htr, ?_, hi, hn, hce, ?_, fun a ha => ?_⟩
  · rw [← framesOpened_outline, htr, framesOpened_append, framesOpened_outline, framesOpened, List.count_reverse, Nat.add_comm]
    exact congrArg _ (framesOpened_init s.cfg)
  · exact Nat.lt_pow_two_of_testBit _ fun k hk => hrec.clear k hk
  · obtain ⟨v, hv, -⟩ := hrec.filled ha
    rw [hv]; exact Option.some_ne_none v

/-- Settles O24: a register that takes its write reads back the value, one that drops it reads back what it held. -/
theorem initResultCode : Obligations.InitResultCode := by
  intro s h hp hl
  obtain ⟨t, rc, hret, -, -, -, -, hst, hrec⟩ := init_returns h
  have hm := h.2.2
  refine ⟨t, rc, hret, fun k hk => ?_, fun hs i hi => ?_, fun a ha i => hst.others a (mt mem_initWrites.mp ha) i, fun hs => ?_⟩
  · have hk := List.getElem?_eq_getElem hk
    exact ⟨init_taken hp hl hk hst hrec, fun hs _ => init_dropped hp hl hk hst hrec hs⟩
  · rw [hst.written hp (s.cfg.regTxAddr, s.cfg.pipeAddr.toList) (by simp [initWrites]), storeAll_five hm (by simp [isFiveByte]) hs _ 0 _
      (by simp), if_pos (by simpa using hi), Nat.sub_zero]
  · refine BitVec.eq_of_getLsbD_eq fun k _ => ?_
    rw [show (0 : Byte).getLsbD k = false from BitVec.getLsbD_zero]
    rcases Nat.lt_or_ge k (initValues s.cfg).length with hk | hk
    · exact (init_taken hp hl (List.getElem?_eq_getElem hk) hst hrec (by simp [hs])).1
    · exact hrec.clear k hk

/-- Settles O25: without a device every read answers `ABSENT_BYTE`. -/
theorem initAbsentDevice : Obligations.InitAbsentDevice := by
  intro s h hp
  obtain ⟨t, rc, hret, hi, -, -, -, -, hrec⟩ := init_returns h
  refine ⟨t, rc, hret, hi, fun a ha => ?_, fun k hk => ?_, hrec.clear 7 (Nat.le_refl 7)⟩
  · obtain ⟨v, hv, habs⟩ := hrec.filled ha
    rw [hv, habs hp]
  · obtain ⟨v, -, hbit, -, -, hv⟩ := hrec.tried k _ (List.getElem?_eq_getElem hk)
    rw [hbit, hv.1 hp]
    exact decide_eq_decide.mpr ne_comm

end Sys2Proof
end

section
/-! The FIFO transfers and ClearFlags as requests (42_packet_io.md R181 to R183, R186): at most one frame each. -/

namespace Sys2Proof.Machine

/-- A request whose computation does nothing leaves its response and nothing else (42_packet_io.md R183). -/
theorem exec_silent {i : Instr} {m : Eng Reply} {s : State} {r : Reply} (he : exec i s = serve (.op i) m s) (hs : s.seq = [])
    (hm : m.run (begun (.op i) s) = .ok r (begun (.op i) s)) : exec i s = .next (finishOperation r s) := by
  have hq : advance s.seq = s.seq := by rw [hs]; rfl
  rw [he, (serve_ok hs hm .start).1]
  show Host.Outcome.next { s with seq := advance s.seq, resp := some r } = _
  rw [hq, finishOperation]

/-- The mask of the three flags, as the list of their bits (10_state.md R35). -/
theorem flagsAll_eq (c : Cfg) : c.flagsAll = onesAt [c.bitRxDr, c.bitTxDs, c.bitMaxRt] :=
  BitVec.eq_of_getLsbD_eq fun j hj => by
    rw [flagsAll_bit hj, onesAt_bit _ hj]
    simp [Bool.or_assoc]

theorem flagTxDs_eq (c : Cfg) : c.flagTxDs = onesAt [c.bitTxDs] :=
  BitVec.eq_of_getLsbD_eq fun j hj => by
    rw [flagTxDs_bit hj, onesAt_bit _ hj]
    simp

/-- A request for 1 to 32 bytes has as many bytes to load as it says. -/
theorem payload_length {n : Byte} {buf : List Byte} (hb : n.toNat ≤ buf.length) : (payload n buf).length = n.toNat := by
  rw [payload, List.length_take, Nat.min_eq_left hb]

theorem payload_ne_nil {n : Byte} {buf : List Byte} (hn : n ≠ 0) (hb : n.toNat ≤ buf.length) : payload n buf ≠ [] := by
  refine List.ne_nil_of_length_pos ?_
  rw [payload_length hb]
  exact Nat.pos_of_ne_zero fun h => hn (BitVec.eq_of_toNat_eq h)

theorem payload_length_max {n : Byte} (hn : n ≤ 32) (buf : List Byte) : (payload n buf).length ≤ 32 :=
  (payload_length_le n buf).trans (BitVec.le_def.mp hn)

/-- WriteFifo of 1 to 32 bytes. -/
theorem writeFifo_returns {n : Byte} {buf : List Byte} (hn : n ≠ 0) (h32 : n ≤ 32) (hb : n.toNat ≤ buf.length) {s : State}
    (h : Ready s) :
    ∃ t, Returns (.writeFifo n buf) s Reply.plain t ∧
      t.trace = .csnDeassert :: (((payload n buf).map fun b => TraceEvent.xchg b none).reverse ++
        .xchg s.cfg.opcWTxPayload none :: .csnAssert :: s.trace) ∧
      t.cache = s.cache ∧ t.csn = .deasserted ∧ t.ce = s.ce ∧ (∀ b j, t.dev.cell s.cfg b j = s.dev.cell s.cfg b j) ∧
      (s.cfg.present = true → Quiet s → t.dev = s.dev.load s.cfg (payload n buf)) := by
  obtain ⟨t, hr, hf, htr, hcell, hq⟩ := writeFifoBody_ok hn buf (payload_ne_nil hn hb) (payload_length_max h32 buf)
    (s := begun (.op (.writeFifo n buf)) s) h.2.2 h.2.1
  exact ⟨_, request_returns (f := fun _ => Reply.plain) rfl h.1 (lengthRefusal_none h32 _) hr hf.work, htr, hf.cache, hf.csn,
    hf.ce, hcell _, hq⟩

/-- ReadFifo of 1 to 32 bytes. -/
theorem readFifo_returns {n : Byte} (hn : n ≠ 0) (h32 : n ≤ 32) {s : State} (h : Ready s) :
    ∃ t st bytes, Returns (.readFifo n) s (Reply.bytes bytes) t ∧ bytes.length = n.toNat ∧
      t.trace = .csnDeassert :: ((bytes.map fun b => TraceEvent.xchg Config.dummy (some b)).reverse ++
        .xchg s.cfg.opcRRxPayload (some st) :: .csnAssert :: s.trace) ∧
      t.cache = s.cache ∧ t.csn = .deasserted ∧ t.ce = s.ce ∧ (∀ b j, t.dev.cell s.cfg b j = s.dev.cell s.cfg b j) ∧
      (s.cfg.present = false → bytes = List.replicate n.toNat s.cfg.absentByte) ∧
      (s.cfg.present = true → Quiet s → t.dev = s.dev.dropHead ∧
        ∀ head rest, s.dev.rxFifo = head :: rest → ∀ i < n.toNat, i < head.length → bytes[i]? = head[i]?) := by
  obtain ⟨t, st, bytes, hr, hf, hlen, htr, hcell, habs, hq⟩ := readFifoBody_ok hn (s := begun (.op (.readFifo n)) s) h.2.2 h.2.1
  refine ⟨_, st, bytes, request_returns rfl h.1 (lengthRefusal_none h32 _) hr hf.work, hlen, htr, hf.cache, hf.csn, hf.ce,
    hcell _, habs, fun hp hquiet => ?_⟩
  obtain ⟨hd, -, hhead⟩ := hq hp hquiet
  exact ⟨hd, hhead⟩

/-- ClearFlags: a write of the status register. -/
theorem clearFlags_returns (m : Byte) {s : State} (h : Ready s) :
    ∃ t, Returns (.clearFlags m) s Reply.plain t ∧
      t.trace = .csnDeassert :: .xchg (m &&& s.cfg.flagsAll) none :: .xchg (writeOpcode s.cfg.regStatus) none ::
        .csnAssert :: s.trace ∧
      t.cache = s.cache ∧ t.csn = .deasserted ∧ t.ce = s.ce ∧ (∀ b j, t.dev.cell s.cfg b j = s.dev.cell s.cfg b j) ∧
      (s.cfg.present = true → Quiet s →
        t.dev = (s.dev.store s.cfg s.cfg.regStatus 0 (m &&& s.cfg.flagsAll)).inFrame .none) := by
  obtain ⟨t, hr, hc, hca, htr, hcell, hq⟩ := clearFlagsBody_ok m (s := begun (.op (.clearFlags m)) s) h.2.2 h.2.1
  exact ⟨_, request_returns (f := fun _ => Reply.plain) (why := accepts) rfl h.1 rfl hr hc.work, htr, hca, hc.csn, hc.ce, hcell, hq⟩

end Sys2Proof.Machine

namespace Sys2Proof

open Sys2Proof.Machine

/-- Settles O26: the payload of the frame is what the device appends when the frame closes. -/
theorem writeFifoLoads : Obligations.WriteFifoLoads := by
  refine ⟨fun s buf hs => exec_silent (m := guarded (lengthRefusal 0) _) rfl hs rfl, fun s n buf hn h32 hb h => ?_⟩
  obtain ⟨t, hret, htr, hca, hcsn, hce, hcell, hq⟩ := writeFifo_returns hn h32 hb h
  refine ⟨t, hret, htr, hca, hcsn, hce, hcell, fun hp hquiet => ?_⟩
  rw [hq hp hquiet, Device.load, Device.appendPayload]
  split <;> rfl

/-- Settles O27: the head of the receive FIFO is what the frame reads, and what the device drops when the frame closes. -/
theorem readFifoReturnsTheHead : Obligations.ReadFifoReturnsTheHead := by
  refine ⟨fun s hs => exec_silent (m := guarded (lengthRefusal 0) _) rfl hs rfl, fun s n hn h32 h => ?_⟩
  exact readFifo_returns hn h32 h

/-- Settles O28: the flags outside the mask are outside the byte sent, and those inside are cleared by the store. -/
theorem clearFlagsClearsTheMaskedFlags : Obligations.ClearFlagsClearsTheMaskedFlags := by
  intro s m h
  obtain ⟨t, hret, htr, hca, hcsn, hce, hcell, hq⟩ := clearFlags_returns m h
  refine ⟨t, hret, flagsAll_eq s.cfg ▸ htr, hca, hcsn, hce, hcell, fun htakes hquiet => ?_⟩
  rw [hq htakes.1 hquiet, store_status h.2.2 htakes.2, clearFlags_masked h.2.2]
  rfl

end Sys2Proof
end

section
/-! Initiate (42_packet_io.md R192): what one pulse of the enable line does when no other agent's schedule is left
(45_device_interpreter.md R269, R270). -/

namespace Sys2Proof.Machine

/-! The trigger (R269). -/

section

variable {c : Cfg} {fresh : Nat → Byte} {d : Device} {b : Byte}

/-- What the device sees of a register byte that is known. -/
theorem sample_known {a : Byte} {i : Nat} (h : d.cell c a i = some (.known b)) : d.sample c fresh a i = b := by
  rw [Device.sample, h]; rfl

/-- A powered-up device in transmit mode with a payload latches its head. -/
theorem trigger_fires {head : List Byte} {rest : List (List Byte)} (hc : d.cell c c.regConfig 0 = some (.known b))
    (hp : b.getLsbD c.bitPwrUp = true) (hr : b.getLsbD c.bitPrimRx = false) (hf : d.txFifo = head :: rest)
    (hb : d.burst = none) :
    d.trigger c fresh = { d with burst := some { frame := d.latched c fresh head, held := true } } := by
  have up : d.poweredUp c fresh = true := by rw [Device.poweredUp, sample_known hc, hp]
  have tx : d.primRx c fresh = false := by rw [Device.primRx, sample_known hc, hr]
  simp only [Device.trigger, hf, hb, up, tx, Bool.false_eq_true, not_false_eq_true, and_self, if_true]

/-- A device with nothing to transmit triggers nothing. -/
theorem trigger_empty (h : d.txFifo = []) : d.trigger c fresh = d := by
  rw [Device.trigger, h]

/-- Nor does one that is powered down. -/
theorem trigger_down (hc : d.cell c c.regConfig 0 = some (.known b)) (hp : b.getLsbD c.bitPwrUp = false) :
    d.trigger c fresh = d := by
  obtain h | ⟨_, _, _, _, up, _⟩ := trigger_cases c fresh d
  · exact h
  · rw [Device.poweredUp, sample_known hc, hp] at up; cases up

/-- The latched frame shows every register byte that is known. -/
theorem latched_addr {head : List Byte} {i : Nat} (hi : i < 5) (h : d.cell c c.regTxAddr i = some (.known b)) :
    (d.latched c fresh head).addr[i]? = some b := by
  show ((List.range Config.addrLen).map (d.sample c fresh c.regTxAddr))[i]? = some b
  rw [List.getElem?_map, List.getElem?_range hi, Option.map_some, sample_known h]

theorem latched_chan {head : List Byte} (h : d.cell c c.regRfCh 0 = some (.known b)) :
    (d.latched c fresh head).chan = b := sample_known h

theorem latched_rate {head : List Byte} (h : d.cell c c.regRfSetup 0 = some (.known b)) :
    (d.latched c fresh head).rate = b := sample_known h

end

/-! The pulse. -/

/-- Once the schedule is used up a burst in progress completes, if the node's bursts do (45_device_interpreter.md R275). -/
theorem gap_burst {s : State} {b : Burst} (he : s.env = []) (hp : s.cfg.present = true) (hb : s.dev.burst = some b) :
    gap s = if s.cfg.txCompletes then { s with air := s.air ++ [b.frame], dev := s.dev.finishBurst b } else s := by
  have hg : gap s = gapOf s [] := congrArg (gapOf s) he
  rw [hg, gapOf, transmitComplete, if_pos hp, hb, completeBurst]

/-- What the pulse leaves of the line, the bus, the engine and the ports. -/
structure Pulsed (s t : State) : Prop extends Went s t where
  ce : t.ce = .low
  csn : t.csn = s.csn
  cache : t.cache = s.cache
  trace : t.trace = .ceLow :: .wait 10 :: .ceHigh :: s.trace
  seq : t.seq = advance (advance (advance s.seq))
  cell : ∀ k b j, t.dev.cell k b j = s.dev.cell k b j
  env : t.env = s.env

/-- The state after the three actions of the pulse. -/
def pulsed (s : State) : State := dropped (waited Config.cePulseMinUs (lifted s))

theorem initiateBody_run (s : State) : initiateBody.run s = .ok () (pulsed s) := rfl

section

variable {s : State}

theorem lifted_quiet (hq : Quiet s) (hce : s.ce = .low) :
    (lifted s).env = [] ∧ (lifted s).air = s.air ∧ (lifted s).dev = s.onDevice (Device.trigger s.cfg s.fresh) := by
  rw [lifted, gap_quiet hq, State.raised_low hce]
  exact ⟨hq.1, rfl, rfl⟩

theorem pulsed_pulsed (hq : Quiet s) (hce : s.ce = .low) : Pulsed s (pulsed s) where
  toWent := ((lifted_went s).trans (waited_went _ _)).trans (dropped_went _)
  ce := dropped_ce _
  csn := by simp [pulsed]
  cache := by simp [pulsed]
  trace := by simp [pulsed]
  seq := by
    show advance (gap (waited _ _)).seq = _
    rw [gap_seq]
    show advance (advance (gap (lifted s)).seq) = _
    rw [gap_seq]
    show advance (advance (advance (gap s).raised.seq)) = _
    rw [State.raised_seq, gap_seq]
  cell k b j := by simp [pulsed]
  env := by
    have h1 := (lifted_quiet hq hce).1
    have h2 := (gap_idle h1).1
    exact ((gap_idle (s := waited _ (lifted s)) h2).1).trans hq.1.symm

/-- A pulse that triggers nothing leaves the device and the air alone. -/
theorem pulsed_idle (hq : Quiet s) (hce : s.ce = .low) (h : s.onDevice (Device.trigger s.cfg s.fresh) = s.dev) :
    (pulsed s).dev = s.dev ∧ (pulsed s).air = s.air := by
  obtain ⟨he, ha, hd⟩ := lifted_quiet hq hce
  rw [h] at hd
  have h1 : Quiet (lifted s) := ⟨he, by rw [hd]; exact hq.2⟩
  have h2 : waited Config.cePulseMinUs (lifted s) = (lifted s).stamped (.wait 10) := by rw [waited, gap_quiet h1]
  rw [pulsed, dropped, h2, gap_quiet (s := (lifted s).stamped _) h1]
  exact ⟨hd, ha⟩

/-- A pulse that triggers a burst: it is in progress, or over when bursts complete. -/
theorem pulsed_burst {f : AirFrame} (hq : Quiet s) (hce : s.ce = .low) (hp : s.cfg.present = true)
    (h : s.dev.trigger s.cfg s.fresh = { s.dev with burst := some { frame := f, held := true } }) :
    (s.cfg.txCompletes = false → (pulsed s).dev = { s.dev with burst := some { frame := f, held := true } } ∧
      (pulsed s).air = s.air) ∧
    (s.cfg.txCompletes = true → (pulsed s).dev = s.dev.finishBurst { frame := f, held := true } ∧
      (pulsed s).air = s.air ++ [f]) := by
  obtain ⟨he, ha, hd⟩ := lifted_quiet hq hce
  rw [onDevice_present _ hp, h] at hd
  have hb : (lifted s).dev.burst = some { frame := f, held := true } := by rw [hd]
  have hg := gap_burst he (by rw [lifted_cfg]; exact hp) hb
  rw [lifted_cfg] at hg
  refine ⟨fun hc => ?_, fun hc => ?_⟩
  · rw [hc, if_neg Bool.false_ne_true] at hg
    have h2 : gap (waited Config.cePulseMinUs (lifted s)) = waited Config.cePulseMinUs (lifted s) := by
      have := gap_burst (s := waited Config.cePulseMinUs (lifted s)) (by rw [waited, hg]; exact he) (by simpa using hp)
        (by rw [waited, hg]; exact hb)
      rwa [waited_cfg, lifted_cfg, hc, if_neg Bool.false_ne_true] at this
    rw [pulsed, dropped, h2, waited, hg]
    exact ⟨hd, ha⟩
  · rw [if_pos hc] at hg
    have h2 : Quiet (waited Config.cePulseMinUs (lifted s)) := by rw [waited, hg]; exact ⟨he, rfl⟩
    rw [pulsed, dropped, gap_quiet h2, waited, hg]
    refine ⟨?_, congrArg (· ++ [f]) ha⟩
    show (lifted s).dev.finishBurst _ = _
    rw [hd]; rfl

/-- Whatever it triggers, a pulse receives nothing. -/
theorem pulsed_received (hq : Quiet s) (hce : s.ce = .low) :
    (pulsed s).dev.rxFifo = s.dev.rxFifo ∧ (pulsed s).dev.dataReceived = s.dev.dataReceived := by
  cases hp : s.cfg.present with
  | false => rw [(pulsed_pulsed hq hce).absent hp]; exact ⟨rfl, rfl⟩
  | true =>
    obtain h | ⟨_, _, _, _, _, _, h⟩ := trigger_cases s.cfg s.fresh s.dev
    · rw [(pulsed_idle hq hce ((onDevice_present _ hp).trans h)).1]; exact ⟨rfl, rfl⟩
    · obtain ⟨pending, complete⟩ := pulsed_burst hq hce hp h
      cases hc : s.cfg.txCompletes with
      | false => rw [(pending hc).1]; exact ⟨rfl, rfl⟩
      | true => rw [(complete hc).1]; exact ⟨rfl, rfl⟩

end

/-- A request whose check has passed and whose computation put the response together. -/
theorem guarded_returns {i : Instr} {m : Eng Reply} {why : State → Option RefuseReason} {s t : State} {r : Reply}
    (he : exec i s = serve (.op i) (guarded why m) s) (hs : s.seq = []) (hw : why (begun (.op i) s) = none)
    (hm : m.run (begun (.op i) s) = .ok r t) (hc : SameCallers (begun (.op i) s).seq t.seq) :
    Returns i s r (finishOperation r t.leaving) := returns_of he hs ((guarded_ok hw).trans hm) hc

/-! Its single actions. -/

/-- An operation with no result pending performs its next action. -/
theorem act_next {s : State} {p : Position} {cs : List Position} {a : Action} (hs : s.seq = p :: cs) (hl : p.loc.result = none)
    (hp : plan s p = .act a) : act s = after (a.run.run s) := by
  have ht : p.taken = p := by rw [Position.taken, hl]
  have hw : s.withTop Position.taken = s := by
    rw [State.withTop, hs, mapTop, ht, ← hs]
  rw [act, hs]
  dsimp only
  rw [hw, nextAt, ht, hp]
  rfl

theorem act_initiate_first (s : State) : act (accepted (.op .initiate) s) = lifted (accepted (.op .initiate) s) := rfl

theorem act_initiate_second (s : State) :
    act (lifted (accepted (.op .initiate) s)) = waited Config.cePulseMinUs (lifted (accepted (.op .initiate) s)) := by
  refine act_next (p := ⟨.op .initiate, 1, Locals.start⟩) (cs := s.seq) ?_ rfl (a := .wait Config.cePulseMinUs) rfl
  show advance (gap _).raised.seq = _
  rw [State.raised_seq, gap_seq]
  rfl

end Sys2Proof.Machine

namespace Sys2Proof

open Sys2Proof.Machine

/-- Settles O31: the trigger decides; a burst it starts completes in the next gap or never. -/
theorem initiateTriggersOneBurst : Obligations.InitiateTriggersOneBurst := by
  intro s hs hq hce
  have k := pulsed_pulsed (s := begun (.op .initiate) s) hq hce
  have received := pulsed_received (s := begun (.op .initiate) s) hq hce
  refine ⟨finishOperation Reply.plain (pulsed (begun (.op .initiate) s)).leaving, ?_, k.trace, k.ce, k.csn, k.cache, ?_, ?_,
    k.cell _, received.1, received.2, fun cb head rest hp hcell hup htx hf => ?_, fun cb h => ?_⟩
  · exact guarded_returns rfl hs (initiateRefusal_none hce) rfl k.inside
  · show (act _).ce = _
    rw [act_initiate_first, lifted_ce]
  · show (act (act _)).ce = _
    rw [act_initiate_first, act_initiate_second, waited_ce, lifted_ce]
  · obtain ⟨pending, complete⟩ := pulsed_burst (s := begun (.op .initiate) s) hq hce hp (trigger_fires hcell hup htx hf hq.2)
    refine ⟨s.dev.latched s.cfg s.fresh head, rfl, fun i hi b hb => latched_addr hi hb, fun b hb => latched_chan hb, fun b hb => latched_rate hb,
      fun hc => ?_, fun hc => ?_⟩
    · obtain ⟨hd, ha⟩ := pending hc
      exact ⟨congrArg Device.burst hd, ha, (congrArg Device.txFifo hd).trans rfl, (congrArg Device.dataSent hd).trans rfl⟩
    · obtain ⟨hd, ha⟩ := complete hc
      exact ⟨congrArg Device.burst hd, ha, (congrArg Device.txFifo hd).trans (congrArg List.tail hf), congrArg Device.dataSent hd⟩
  · refine pulsed_idle (s := begun (.op .initiate) s) hq hce ?_
    cases hp : s.cfg.present with
    | false => exact onDevice_absent _ hp
    | true =>
      refine (onDevice_present (s := begun (.op .initiate) s) _ hp).trans ?_
      obtain h | h | ⟨hcell, h | h⟩ := h
      · rw [hp] at h; cases h
      · exact trigger_empty h
      · exact trigger_down hcell h
      · exact trigger_receive hcell h

end Sys2Proof
end

section
/-! End (42_packet_io.md R193): a round of the poll, and the clear after the round that saw "data sent". -/

namespace Sys2Proof.Machine

/-- From `s` to `u` End has polled once: `st` is the status byte, kept among its local values. -/
structure Polled (s : State) (st : Byte) (u : State) : Prop extends Work s u where
  cache : u.cache = s.cache
  trace : u.trace = .csnDeassert :: .xchg s.cfg.opcNop (some st) :: .csnAssert :: s.trace
  seq : ∀ p cs, s.seq = p :: cs → u.seq = { p with k := p.k + 1, loc := { p.loc with status := st } } :: cs
  alone : s.cfg.present = false → st = s.cfg.absentByte
  device : s.cfg.present = true → Quiet s → u.dev = s.dev.inFrame .none ∧ st = s.dev.statusByte s.cfg

/-- "Data sent" is one of the three flags. -/
theorem flagTxDs_masked (c : Cfg) : c.flagTxDs &&& c.flagsAll = c.flagTxDs :=
  BitVec.eq_of_getLsbD_eq fun j hj => by
    rw [BitVec.getLsbD_and, flagTxDs_bit hj, flagsAll_bit hj]
    by_cases e : j = c.bitTxDs <;> simp [e]

section

variable {s u : State} {st : Byte}

/-- A round of End: the poll, then the clear and the return, or the wait. -/
theorem endBody_round (hm : s.cfg.mapped = true) (hx : s.port.left = none) :
    ∃ st u, Polled s st u ∧ (endBody s.cfg).run s = if dataSentBit s.cfg st = true
      then (clearFlags s.cfg s.cfg.flagTxDs >>= fun _ => pure st).run u
      else .error .poll (u.atAction 0) := by
  obtain ⟨u, st, hr, hc, hca, htr, -, habs, hq⟩ := writeCommand_ok s.cfg.opcNop hm (.inr (.inr rfl)) hx
  refine ⟨st, counted (fun l => { l with status := st }) u,
    ⟨⟨hc.toKept.trans (Kept.ofSeq _ _), hc.csn, fun q h => (hc.work.callers q h).mapTop _⟩, hca, htr, fun p cs hs => ?_, habs, fun hp hquiet => ?_⟩, ?_⟩
  · show mapTop _ u.seq = _
    rw [hc.seq, hs]; rfl
  · rw [command_nop hm] at hq
    exact hq hp hquiet
  · simp only [endBody, EStateM.run_bind, hr, noteLocals_run]
    split <;> rfl

/-- The round that saw "data sent" clears that flag and returns. -/
theorem Polled.clears (h : Polled s st u) (hm : s.cfg.mapped = true) (hx : s.port.left = none) :
    ∃ t, (clearFlags s.cfg s.cfg.flagTxDs >>= fun _ => pure st).run u = .ok st t ∧ Work s t ∧ t.cache = s.cache ∧
      t.trace = .csnDeassert :: .xchg s.cfg.flagTxDs none :: .xchg (writeOpcode s.cfg.regStatus) none :: .csnAssert ::
        .csnDeassert :: .xchg s.cfg.opcNop (some st) :: .csnAssert :: s.trace ∧
      (Takes s s.cfg.regStatus → Quiet s → t.dev = { s.dev with frame := .none, dataSent := false }) := by
  obtain ⟨t, hr, hc, hca, htr, -, hq⟩ := clearFlags_ok s.cfg.flagTxDs (s := u) (h.cfg.symm ▸ hm) (h.complete hx)
  rw [h.cfg] at hr htr hq
  refine ⟨t, by rw [EStateM.run_bind, hr]; rfl, h.toWork.trans hc.work, hca.trans h.cache, ?_, fun htakes hquiet => ?_⟩
  · rw [htr, h.trace, flagTxDs_masked]
  · obtain ⟨hp, hns⟩ := htakes
    rw [hq hp (h.quiet hquiet).1, store_status hm hns, clearFlags_masked hm, clearFlags_txDs hm, (h.device hp hquiet).1]
    rfl

/-- End on a quiet device whose "data sent" flag is set: the first poll shows it. -/
theorem endBody_sent (hm : s.cfg.mapped = true) (hx : s.port.left = none) (hquiet : Quiet s) (htakes : Takes s s.cfg.regStatus)
    (hsent : s.dev.dataSent = true) :
    ∃ t, (endBody s.cfg).run s = .ok (s.dev.statusByte s.cfg) t ∧ Work s t ∧ t.cache = s.cache ∧
      t.trace = .csnDeassert :: .xchg s.cfg.flagTxDs none :: .xchg (writeOpcode s.cfg.regStatus) none :: .csnAssert ::
        .csnDeassert :: .xchg s.cfg.opcNop (some (s.dev.statusByte s.cfg)) :: .csnAssert :: s.trace ∧
      t.dev = { s.dev with frame := .none, dataSent := false } := by
  obtain ⟨st, u, hpoll, hround⟩ := endBody_round hm hx
  obtain ⟨-, rfl⟩ := hpoll.device htakes.1 hquiet
  obtain ⟨t, hr, hw, hca, htr, hq⟩ := hpoll.clears hm hx
  have sent : dataSentBit s.cfg (s.dev.statusByte s.cfg) = true := (statusByte_dataSent hm s.dev).trans hsent
  exact ⟨t, (hround.trans (if_pos sent)).trans hr, hw, hca, htr, hq htakes hquiet⟩

end

end Sys2Proof.Machine

namespace Sys2Proof

open Sys2Proof.Machine

/-- Settles O32: the first poll shows the flag, on a device that has it and on none whose byte has its bit. -/
theorem endReturnsOnDataSent : Obligations.EndReturnsOnDataSent := by
  refine ⟨fun s h hquiet htakes hsent => ?_, fun s h hp habs => ?_⟩
  · obtain ⟨t, hr, hw, hca, htr, hd⟩ := endBody_sent (s := begun (.op .endSend) s) h.2.2 h.2.1 hquiet htakes hsent
    exact ⟨_, request_returns (f := Reply.byte) (why := accepts) rfl h.1 rfl hr hw, hd, hca, hw.ce, flagTxDs_eq s.cfg ▸ htr⟩
  · obtain ⟨st, u, hpoll, hround⟩ := endBody_round (s := begun (.op .endSend) s) h.2.2 h.2.1
    obtain rfl := hpoll.alone hp
    obtain ⟨t, hr, hw, -⟩ := hpoll.clears h.2.2 h.2.1
    have hrun := (hround.trans (if_pos habs)).trans hr
    exact ⟨_, request_returns (f := Reply.byte) (why := accepts) rfl h.1 rfl hrun hw, hw.absent hp⟩

end Sys2Proof
end

section
/-! Start (42_packet_io.md R190, R191): flags, mode bit, flush, load; and Send as far as its Start. -/

namespace Sys2Proof.Machine

/-! Loading any number of bytes (R183). -/

/-- The tokens of WriteFifo, newest first; none for no byte. -/
def loadTokens (c : Cfg) (n : Byte) (buf : List Byte) : List TraceEvent :=
  if n = 0 then []
  else .csnDeassert :: ((payload n buf).map fun b => TraceEvent.xchg b none).reverse ++ [.xchg c.opcWTxPayload none, .csnAssert]

/-- What the transmit FIFO holds of a payload loaded into it empty. -/
def loaded (n : Byte) (buf : List Byte) : List (List Byte) := if n = 0 then [] else [payload n buf]

section

variable {n : Byte} {buf : List Byte} {s : State}

theorem writeFifo_any (h32 : n ≤ 32) (hb : n.toNat ≤ buf.length) (hm : s.cfg.mapped = true) (hx : s.port.left = none)
    (hn : s.csn = .deasserted) :
    ∃ t, (writeFifo s.cfg n buf).run s = .ok () t ∧ Called s t ∧ t.cache = s.cache ∧
      t.trace = loadTokens s.cfg n buf ++ s.trace ∧ (∀ k b i, t.dev.cell k b i = s.dev.cell k b i) ∧
      (s.cfg.present = true → Quiet s → s.dev.txFifo = [] → s.dev.frame = .none → (n ≠ 0 → 1 ≤ s.cfg.txDepth) →
        t.dev = { s.dev with txFifo := loaded n buf }) := by
  by_cases h0 : n = 0
  · subst h0
    refine ⟨_, writeFifo_zero buf s, ⟨Kept.ofSeq s _, hn, rfl⟩, rfl, rfl, fun _ _ _ => rfl, fun _ _ hf _ _ => ?_⟩
    rw [loaded, if_pos rfl, ← hf]
  · obtain ⟨t, hr, hc, hca, htr, hcell, hq⟩ :=
      writeFifo_ok h0 buf (payload_ne_nil h0 hb) (payload_length_max h32 buf) hm hx
    refine ⟨t, hr, hc, hca, ?_, hcell, fun hp hquiet hf hframe hd => ?_⟩
    · rw [htr, loadTokens, if_neg h0]; simp
    · rw [hq hp hquiet, Device.load, Device.appendPayload, hf, if_pos (show ([] : List (List Byte)).length < _ from hd h0), loaded,
        if_neg h0, ← hframe]
      rfl

end

/-! Start as a computation. -/

/-- The device after a Start whose writes it took: the configuration byte `w`, the flags clear, the payloads `q` alone. -/
def Device.started (c : Cfg) (w : Byte) (q : List (List Byte)) (d : Device) : Device :=
  { d.setCell c c.regConfig (.known w) 0 with
    dataReceived := false
    dataSent := false
    maxRetransmit := false
    txFifo := q
    frame := .none }

theorem cell_started (c : Cfg) (w : Byte) (q : List (List Byte)) (d : Device) (b : Byte) (j : Nat) :
    (d.started c w q).cell c b j = (d.setCell c c.regConfig (.known w) 0).cell c b j := Device.cell_congr rfl rfl rfl c b j

theorem started_other {c : Cfg} {b : Byte} (hb : b ≠ c.regConfig) (w : Byte) (q : List (List Byte)) (d : Device) (j : Nat) :
    (d.started c w q).cell c b j = d.cell c b j := by
  rw [cell_started, Device.cell_setCell, if_neg fun e => hb e.1.symm]

/-- Setting the flags of the status register aside, the flush and the load are all Start does to the device. -/
theorem started_eq {c : Cfg} (hm : c.mapped = true) (w : Byte) {d : Device} (hb : d.burst = none) (q : List (List Byte)) :
    { (Device.inFrame .none (Device.command c c.opcFlushTx
      (Device.inFrame .none ((d.clearFlags c c.flagsAll).setCell c c.regConfig (.known w) 0)))) with txFifo := q } =
      d.started c w q := by
  rw [command_flushTx, clearFlags_all hm]
  simp only [Device.setCell, Device.inFrame, Device.started, hb, Option.map_none]

/-- What Start leaves of a device that takes its writes, `w` the configuration byte, when no other agent steps (R190). -/
structure StartDone (n : Byte) (buf : List Byte) (w st0 st1 : Byte) (s t : State) : Prop where
  cached : ∀ b, t.cached b = if b = s.cfg.regConfig then some w else s.cached b
  trace : t.trace = loadTokens s.cfg n buf ++
    .csnDeassert :: .xchg s.cfg.opcFlushTx (some st0) :: .csnAssert ::
    .csnDeassert :: .xchg Config.dummy (some w) :: .xchg (readOpcode s.cfg.regConfig) (some st1) :: .csnAssert ::
    .csnDeassert :: .xchg w none :: .xchg (writeOpcode s.cfg.regConfig) none :: .csnAssert ::
    .csnDeassert :: .xchg s.cfg.flagsAll none :: .xchg (writeOpcode s.cfg.regStatus) none :: .csnAssert :: s.trace
  cell : t.dev.cell s.cfg s.cfg.regConfig 0 = some (.known w)
  device : t.dev = s.dev.started s.cfg w (loaded n buf)

section

variable {n : Byte} {buf : List Byte} {c w : Byte} {s : State}

theorem StartDone.other {st0 st1 : Byte} {t : State} (h : StartDone n buf w st0 st1 s t) {b : Byte} (hb : b ≠ s.cfg.regConfig)
    (j : Nat) : t.dev.cell s.cfg b j = s.dev.cell s.cfg b j := by
  rw [h.device]; exact started_other hb w _ s.dev j

/-- A mode-bit write that is not taken ends Start (R191). -/
theorem startBody_mismatch {b : Byte} (hm : s.cfg.mapped = true) (hx : s.port.left = none)
    (hc : s.cached s.cfg.regConfig = some c) (hw : withBit c s.cfg.bitPrimRx false = w) (hp : s.cfg.present = true)
    (hst : s.cfg.regConfig ∈ s.cfg.stuck) (hcell : s.dev.cell s.cfg s.cfg.regConfig 0 = some (.known b)) (hne : b ≠ w) :
    ∃ t st, (startBody s.cfg n buf).run s = .ok true t ∧ Work s t ∧ t.cache = s.cache ∧
      t.trace = .csnDeassert :: .xchg Config.dummy (some b) :: .xchg (readOpcode s.cfg.regConfig) (some st) :: .csnAssert ::
        .csnDeassert :: .xchg w none :: .xchg (writeOpcode s.cfg.regConfig) none :: .csnAssert ::
        .csnDeassert :: .xchg s.cfg.flagsAll none :: .xchg (writeOpcode s.cfg.regStatus) none :: .csnAssert :: s.trace := by
  obtain ⟨t1, t, st, v, hr1, hr2, hwork, htr, -, hca, -, -, -, hstuck, -⟩ :=
    clear_then_mode ModeBit.transmit.bit w hm hx hc hw
  obtain ⟨rfl, -⟩ := hstuck hp hst b hcell
  refine ⟨t, st, ?_, hwork, hca hne, htr⟩
  simp only [startBody, EStateM.run_bind, hr1, hr2, decide_eq_true hne, if_true, EStateM.run_pure]

/-- Start on a device that takes its writes, when no other agent steps. -/
theorem startBody_ok (hm : s.cfg.mapped = true) (hx : s.port.left = none) (hq : Quiet s)
    (hc : s.cached s.cfg.regConfig = some c) (hw : withBit c s.cfg.bitPrimRx false = w)
    (hl : legalValue s.cfg s.cfg.regConfig c = true) (hcfg : Takes s s.cfg.regConfig) (hstat : Takes s s.cfg.regStatus)
    (h32 : n ≤ 32) (hb : n.toNat ≤ buf.length) (hd : n ≠ 0 → 1 ≤ s.cfg.txDepth) :
    ∃ t st0 st1, (startBody s.cfg n buf).run s = .ok false t ∧ Work s t ∧ StartDone n buf w st0 st1 s t := by
  obtain ⟨t1, t2, st1, v, hr1, hr2, hw2, htr2, hca2, -, -, -, htaken, -, hdev2⟩ :=
    clear_then_mode ModeBit.transmit.bit w hm hx hc hw
  obtain ⟨rfl, hcell2⟩ := htaken hcfg hl
  obtain ⟨hq2, -⟩ := hw2.quiet hq
  obtain ⟨t3, st0, hr3, hc3, hca3, htr3, hcell3, -, hdev3⟩ := flushTx_ok (s := t2) (hw2.cfg ▸ hm) (hw2.complete hx)
  have hw3 := hw2.trans hc3.work
  obtain ⟨t4, hr4, hc4, hca4, htr4, hcell4, hdev4⟩ :=
    writeFifo_any (n := n) (buf := buf) (s := t3) h32 hb (hw3.cfg ▸ hm) (hw3.complete hx) hw3.csn
  rw [hw2.cfg] at hr3 htr3 hdev3
  rw [hw3.cfg] at hr4 htr4 hdev4
  have hdev3 := (hdev3 hcfg.1 hq2).1
  have hempty : t3.dev.txFifo = [] := by rw [hdev3, command_flushTx]; rfl
  refine ⟨t4, st0, st1, ?_, hw3.trans hc4.work, fun b => ?_, ?_, ?_, ?_⟩
  · simp only [startBody, EStateM.run_bind, hr1, hr2, hr3, hr4, ne_eq, not_true_eq_false, decide_false, Bool.false_eq_true,
      if_false, EStateM.run_pure]
  · rw [State.cached_congr (hca4.trans hca3), hca2]; simp
  · rw [htr4, htr3, htr2]
  · rw [hcell4, hcell3, hcell2]
  · rw [hdev4 hcfg.1 (hc3.quiet hq2).1 hempty (hdev3 ▸ rfl) hd, hdev3, hdev2 hcfg hl hstat hq]
    exact started_eq hm _ hq.2 _

end

/-! Send as far as its Start. -/

/-- A Start whose mode-bit write is not taken ends Send (R195). -/
theorem sendBody_mismatch {n : Byte} {buf : List Byte} {s t : State}
    (hr : (startBody s.cfg n buf).run (s.entering (.op (.start n buf))) = .ok true t) :
    (sendBody s.cfg n buf).run s = .ok (Reply.failIf true) t.leaving := by
  rw [sendBody, EStateM.run_bind, start, call_ok hr]; rfl

end Sys2Proof.Machine

namespace Sys2Proof

open Sys2Proof.Machine

/-- Settles O29: after the flush the FIFO is empty, so the payload is alone in it. -/
theorem startLoadsOnePayload : Obligations.StartLoadsOnePayload := by
  intro s n buf c w h hq hi hce h32 hb hd hc hw hl hcfg hstat
  obtain ⟨t, st0, st1, hr, hwork, done⟩ :=
    startBody_ok (s := begun (.op (.start n buf)) s) h.2.2 h.2.1 hq hc hw.symm hl hcfg hstat h32 hb fun _ => hd
  have hdev := done.device
  exact ⟨_, request_returns (f := Reply.failIf) rfl h.1 (startRefusal_none hi hce h32) hr hwork, hwork.ce.trans hce, hwork.csn,
    done.cached, done.cell, fun b hb j => done.other hb j, congrArg Device.txFifo hdev,
    (congrArg Device.rxFifo hdev).trans rfl, congrArg Device.dataReceived hdev, congrArg Device.dataSent hdev,
    congrArg Device.maxRetransmit hdev⟩

/-- Settles O30: the byte read back is the byte the register held, so nothing after the read-back happens. -/
theorem modeBitNotTakenStopsTheSend : Obligations.ModeBitNotTakenStopsTheSend := by
  intro s n buf i c b w hi h hinit hce h32 hc hw hp hst hcell hne
  obtain rfl | rfl := hi
  · obtain ⟨t, st, hr, hwork, hca, htr⟩ :=
      startBody_mismatch (s := begun (.op (.start n buf)) s) (n := n) (buf := buf) h.2.2 h.2.1 hc hw.symm hp hst hcell hne
    exact ⟨_, st, request_returns (f := Reply.failIf) rfl h.1 (startRefusal_none hinit hce h32) hr hwork, hwork.ce.trans hce, hca,
      flagsAll_eq s.cfg ▸ htr⟩
  · obtain ⟨t, st, hr, hwork, hca, htr⟩ :=
      startBody_mismatch (s := (begun (.op (.send n buf)) s).entering (.op (.start n buf))) (n := n) (buf := buf) h.2.2 h.2.1 hc
        hw.symm hp hst hcell hne
    have hrun := sendBody_mismatch (s := begun (.op (.send n buf)) s) hr
    exact ⟨_, st, guarded_returns rfl h.1 (startRefusal_none hinit hce h32) hrun hwork.called.work.inside,
      hwork.ce.trans hce, hca, flagsAll_eq s.cfg ▸ htr⟩

end Sys2Proof
end

section
/-! Send (42_packet_io.md R195): Start, Initiate and the first round of End, on a device that takes its writes. -/

namespace Sys2Proof.Machine

/-! Addresses and bits. -/

/-- The mode bit and the power-up bit lie apart, inside the byte (10_state.md R29). -/
theorem config_layout {c : Cfg} (h : c.mapped = true) : c.bitPrimRx < 8 ∧ c.bitPwrUp < 8 ∧ c.bitPwrUp ≠ c.bitPrimRx := by
  have hb := mapped_bits h
  simp only [BitPositions.ok, Bool.and_eq_true] at hb
  have hc := hb.1.1.1.1.1.1.1.1
  simp only [layoutOk, BitPositions.configBits, Bool.and_eq_true, decide_eq_true_eq, List.nodup_cons, List.mem_cons,
    List.not_mem_nil, List.all_cons, List.all_nil, not_or] at hc
  omega

theorem txAddr_ne_config {c : Cfg} (h : c.mapped = true) : c.regTxAddr ≠ c.regConfig :=
  named_apart h (i := 8) (j := 0) (by decide : 8 < 10) (by decide : 0 < 10) (by decide)
theorem rfCh_ne_config {c : Cfg} (h : c.mapped = true) : c.regRfCh ≠ c.regConfig :=
  named_apart h (i := 4) (j := 0) (by decide : 4 < 10) (by decide : 0 < 10) (by decide)

/-- The status byte when "data sent" alone is set and the transmit FIFO has room (10_state.md R35). -/
theorem statusByte_sent {c : Cfg} {d : Device} (hr : d.dataReceived = false) (hs : d.dataSent = true)
    (hx : d.maxRetransmit = false) (hf : d.txFifo.length ≠ c.txDepth) : d.statusByte c =
      onesAt (c.bitTxDs :: (if d.rxFifo = [] then [c.loRxPNo, c.loRxPNo + 1, c.loRxPNo + 2] else [])) := by
  refine BitVec.eq_of_getLsbD_eq fun j hj => ?_
  rw [statusByte_bit d hj, onesAt_bit _ hj, hr, hs, hx, decide_eq_false hf]
  by_cases he : d.rxFifo = []
  · simp only [he, if_true, List.mem_cons, List.not_mem_nil, or_false, Bool.false_and, Bool.false_or, Bool.or_false, Bool.true_and,
      decide_true, Bool.and_true, ← Bool.decide_or]
    exact decide_eq_decide.mpr (by omega)
  · simp [he]

/-! Start and Initiate as sub-operations. -/

/-- The state after Initiate as a sub-operation. -/
def initiated (s : State) : State := (pulsed (s.entering (.op .initiate))).leaving

section

variable {n : Byte} {buf : List Byte} {c w : Byte} {s : State}

theorem start_ok (hm : s.cfg.mapped = true) (hx : s.port.left = none) (hq : Quiet s)
    (hc : s.cached s.cfg.regConfig = some c) (hw : withBit c s.cfg.bitPrimRx false = w)
    (hl : legalValue s.cfg s.cfg.regConfig c = true) (hcfg : Takes s s.cfg.regConfig) (hstat : Takes s s.cfg.regStatus)
    (h32 : n ≤ 32) (hb : n.toNat ≤ buf.length) (hd : n ≠ 0 → 1 ≤ s.cfg.txDepth) :
    ∃ t st0 st1, (start s.cfg n buf).run s = .ok false t ∧ Called s t ∧ StartDone n buf w st0 st1 s t := by
  obtain ⟨t, st0, st1, hr, hwork, done⟩ :=
    startBody_ok (s := s.entering (.op (.start n buf))) hm hx hq hc hw hl hcfg hstat h32 hb hd
  exact ⟨t.leaving, st0, st1, call_ok hr, hwork.called, done.cached, done.trace, done.cell, done.device⟩

/-- Send, once its Start is done, pulses the line and polls. -/
theorem sendBody_started {t : State} (h : (start s.cfg n buf).run s = .ok false t) :
    (sendBody s.cfg n buf).run s = (endSend s.cfg >>= fun _ => pure Reply.plain).run (initiated t) := by
  rw [sendBody, EStateM.run_bind, h]; rfl

theorem initiated_went (hq : Quiet s) (hce : s.ce = .low) : Went s (initiated s) :=
  (pulsed_pulsed (s := s.entering (.op .initiate)) hq hce).toWent.called.1

theorem initiated_seq (hq : Quiet s) (hce : s.ce = .low) : (initiated s).seq = advance s.seq :=
  (pulsed_pulsed (s := s.entering (.op .initiate)) hq hce).toWent.called.2

/-- A powered-up device in transmit mode whose bursts complete sends its head payload in the pulse (R192). -/
theorem initiated_sends {k : Cfg} {b : Byte} {head : List Byte} {rest : List (List Byte)} (hk : s.cfg = k) (hq : Quiet s)
    (hce : s.ce = .low) (hp : k.present = true) (hcell : s.dev.cell k k.regConfig 0 = some (.known b))
    (hup : b.getLsbD k.bitPwrUp = true) (htx : b.getLsbD k.bitPrimRx = false) (hf : s.dev.txFifo = head :: rest)
    (hc : k.txCompletes = true) :
    (initiated s).dev = { s.dev with txFifo := rest, dataSent := true } ∧
      (initiated s).air = s.air ++ [s.dev.latched k s.fresh head] := by
  subst hk
  obtain ⟨hd, ha⟩ := (pulsed_burst (s := s.entering (.op .initiate)) hq hce hp (trigger_fires hcell hup htx hf hq.2)).2 hc
  refine ⟨hd.trans ?_, ha⟩
  show { s.dev with txFifo := s.dev.txFifo.tail, dataSent := true, burst := none } = _
  rw [hf, ← hq.2]; rfl

/-- End as a sub-operation, on a quiet device whose "data sent" flag is set. -/
theorem endSend_sent {k : Cfg} (hk : s.cfg = k) (hm : k.mapped = true) (hx : s.port.left = none) (hq : Quiet s)
    (htakes : k.present = true ∧ k.regStatus ∉ k.stuck) (hsent : s.dev.dataSent = true) :
    ∃ t, (endSend k).run s = .ok (s.dev.statusByte k) t ∧ Called s t ∧ t.cache = s.cache ∧
      t.trace = .csnDeassert :: .xchg k.flagTxDs none :: .xchg (writeOpcode k.regStatus) none :: .csnAssert ::
        .csnDeassert :: .xchg k.opcNop (some (s.dev.statusByte k)) :: .csnAssert :: s.trace ∧
      t.dev = { s.dev with frame := .none, dataSent := false } := by
  subst hk
  obtain ⟨t, hr, hw, h⟩ := endBody_sent (s := s.entering (.op .endSend)) hm hx hq htakes hsent
  exact ⟨t.leaving, call_ok hr, hw.called, h⟩

/-- Send of 1 to 32 bytes on a quiet device that is powered up and takes its writes; `t1` is the state after its Start. -/
theorem sendBody_ok (hm : s.cfg.mapped = true) (hx : s.port.left = none) (hq : Quiet s) (hce : s.ce = .low)
    (hc : s.cached s.cfg.regConfig = some c) (hw : withBit c s.cfg.bitPrimRx false = w)
    (hl : legalValue s.cfg s.cfg.regConfig c = true) (hup : c.getLsbD s.cfg.bitPwrUp = true) (hcfg : Takes s s.cfg.regConfig)
    (hstat : Takes s s.cfg.regStatus) (hn : n ≠ 0) (h32 : n ≤ 32) (hb : n.toNat ≤ buf.length) (hd : 1 ≤ s.cfg.txDepth)
    (htx : s.cfg.txCompletes = true) :
    ∃ t t1 st0 st1, (sendBody s.cfg n buf).run s = .ok Reply.plain t ∧ StartDone n buf w st0 st1 s t1 ∧
      (∀ q, SameCallers q s.seq → SameCallers q t.seq) ∧ t.ce = .low ∧ t.csn = .deasserted ∧ t.cache = t1.cache ∧
      t.dev = s.dev.started s.cfg w [] ∧ t.air = s.air ++ [t1.dev.latched s.cfg t1.fresh (payload n buf)] ∧
      t.trace = .csnDeassert :: .xchg s.cfg.flagTxDs none :: .xchg (writeOpcode s.cfg.regStatus) none :: .csnAssert ::
        .csnDeassert :: .xchg s.cfg.opcNop (some (onesAt (s.cfg.bitTxDs ::
          (if s.dev.rxFifo = [] then [s.cfg.loRxPNo, s.cfg.loRxPNo + 1, s.cfg.loRxPNo + 2] else [])))) :: .csnAssert ::
        .ceLow :: .wait 10 :: .ceHigh :: t1.trace := by
  obtain ⟨hrx8, hup8, hne⟩ := config_layout hm
  have up : w.getLsbD s.cfg.bitPwrUp = true := by rw [← hw, withBit_bit _ _ _ _ hup8, if_neg hne, hup]
  have tx : w.getLsbD s.cfg.bitPrimRx = false := by rw [← hw, withBit_bit _ _ _ _ hrx8, if_pos rfl]
  obtain ⟨t1, st0, st1, hr1, hc1, done⟩ := start_ok hm hx hq hc hw hl hcfg hstat h32 hb fun _ => hd
  have hdev1 : t1.dev = s.dev.started s.cfg w [payload n buf] := by rw [done.device, loaded, if_neg hn]
  obtain ⟨hq1, hair1, -⟩ := hc1.quiet hq
  have hce1 := hc1.ce.trans hce
  have w1 := hc1.work.went
  -- The pulse.
  have k := pulsed_pulsed (s := t1.entering (.op .initiate)) hq1 hce1
  have w2 := w1.trans k.toWent.called.1
  obtain ⟨hdev2, hair2⟩ := initiated_sends w1.cfg hq1 hce1 hcfg.1 done.cell up tx (congrArg Device.txFifo hdev1) htx
  have hq2 : Quiet (initiated t1) := ⟨k.env.trans hq1.1, by rw [hdev2]; exact hq1.2⟩
  -- The poll.
  obtain ⟨t3, hr3, hc3, hca3, htr3, hdev3⟩ :=
    endSend_sent (s := initiated t1) w2.cfg hm (w2.complete hx) hq2 hstat (by rw [hdev2])
  have hst : (initiated t1).dev.statusByte s.cfg = onesAt (s.cfg.bitTxDs ::
      (if s.dev.rxFifo = [] then [s.cfg.loRxPNo, s.cfg.loRxPNo + 1, s.cfg.loRxPNo + 2] else [])) := by
    rw [hdev2, hdev1]
    exact statusByte_sent rfl rfl rfl (Nat.ne_of_lt hd)
  have hrun : (sendBody s.cfg n buf).run s = .ok Reply.plain t3 := by
    rw [sendBody_started hr1, EStateM.run_bind, hr3]; rfl
  refine ⟨t3, t1, st0, st1, hrun, done, (w2.trans hc3.work.went).callers, hc3.ce.trans k.ce, hc3.csn, hca3.trans k.cache, ?_, ?_, ?_⟩
  · rw [hdev3, hdev2, hdev1]; rfl
  · rw [(hc3.quiet hq2).2.1, hair2, hair1]
  · rw [htr3, hst, show (initiated t1).trace = _ from k.trace]; rfl

end

end Sys2Proof.Machine

namespace Sys2Proof

open Sys2Proof.Machine

/-- Settles O35: Start leaves the payload alone in the FIFO, the pulse sends it, the first poll sees it sent. -/
theorem sendEmitsOneFrame : Obligations.SendEmitsOneFrame := by
  intro s n buf c w h hq hi hce hn h32 hb hd htx hc hw hl hup hcfg hstat
  obtain ⟨t, t1, st0, st1, hr, done, hcallers, hlow, hcsn, hca, hdev, hair, htr⟩ :=
    sendBody_ok (s := begun (.op (.send n buf)) s) h.2.2 h.2.1 hq hce hc hw.symm hl hup hcfg hstat hn h32 hb hd htx
  refine ⟨_, _, st0, st1, guarded_returns rfl h.1 (startRefusal_none hi hce h32) hr (hcallers _ (begun_callers _ _)), hlow, hcsn,
    fun b => (State.cached_congr hca b).trans (done.cached b), ?_, congrArg Device.txFifo hdev,
    (congrArg Device.rxFifo hdev).trans rfl, congrArg Device.dataSent hdev, (congrArg Device.burst hdev).trans hq.2, hair, rfl,
    fun i hi b hb => latched_addr hi ((done.other (txAddr_ne_config h.2.2) i).trans hb),
    fun b hb => latched_chan ((done.other (rfCh_ne_config h.2.2) 0).trans hb), ?_⟩
  · show t.dev.cell s.cfg s.cfg.regConfig 0 = _
    rw [hdev, ← done.cell, done.device]; rfl
  · show t.trace = _
    rw [htr, done.trace, loadTokens, if_neg hn, flagsAll_eq, flagTxDs_eq, List.cons_append, List.cons_append, List.append_assoc]
    rfl

end Sys2Proof
end

section
/-! The two unbounded waits (60_exceptions.md R293): a poll that never shows "data sent" (42_packet_io.md R193), and an exchange
that does not complete (40_register_interface.md R120). -/

namespace Sys2Proof.Machine

/-! A step of a node that is not idle. -/

section

variable {s : State}

theorem runFrame_busy (bytes : List Byte) (hs : s.seq ≠ []) (hf : s.dev.fault = none) :
    runFrame bytes s = .next (refuse .busy s) := by
  have hserve : serve (.frame bytes) (frameBody bytes) s = .next (refuse .busy s) := if_pos hs
  rw [runFrame, hserve, stopOnDeviceFault, show (refuse .busy s).dev.fault = none from hf, faultOr]

/-- What is presented to a node that is not idle is taken from its port, and at most a response is put there (30_encoding.md
R103). -/
theorem step_busy {b : Inbound} (hs : s.seq ≠ []) (hf : s.dev.fault = none) (hb : s.inbox = some b) :
    ∃ r, step s = .next { fetched s with resp := r } := by
  rw [step_inbox hf hb]
  cases decode s.cfg.toOpcodes b with
  | ok i => exact ⟨_, exec_busy i (s := fetched s) hs hf⟩
  | error e =>
    cases b with
    | request bytes => exact ⟨_, rfl⟩
    | frame bytes =>
      cases e with
      | emptyFrame | unknownOp => exact ⟨s.resp, rfl⟩
      | badOpcode | frameTooLong => exact ⟨_, runFrame_busy (s := fetched s) bytes hs hf⟩

/-- A request that comes to a wait. -/
theorem serve_waits {task : Task} {m : Eng Reply} {w : Wait} {t : State} (hs : s.seq = [])
    (h : m.run (begun task s) = .error w t) : serve task m s = .next t := by
  rw [serve, if_neg (not_not.mpr hs), call_run, h]; rfl

end

/-! The poll. -/

/-- A poll shows no "data sent", and nothing will set it: a quiet device that has it clear, or no device and a byte whose bit
is 0. -/
def Silent (s : State) : Prop :=
  s.cfg.present = true ∧ Quiet s ∧ s.dev.dataSent = false ∨
    s.cfg.present = false ∧ s.cfg.absentByte.getLsbD s.cfg.bitTxDs = false

/-- End polls, alone or inside its callers, and will not see what it waits for. -/
structure PollsInVain (s : State) : Prop where
  polls : ∃ p cs, s.seq = p :: cs ∧ p.polls = true
  complete : s.port.left = none
  mapped : s.cfg.mapped = true
  healthy : s.dev.fault = none
  silent : Silent s

section

variable {s u : State} {st : Byte}

/-- The poll itself changes none of this. -/
theorem Polled.silent (h : Polled s st u) (hm : s.cfg.mapped = true) (hs : Silent s) :
    dataSentBit s.cfg st = false ∧ Silent u ∧ u.dev.fault = s.dev.fault := by
  rw [Silent, h.cfg]
  obtain ⟨hp, hq, hd⟩ | ⟨hp, hb⟩ := hs
  · obtain ⟨hdev, rfl⟩ := h.device hp hq
    rw [hdev]
    exact ⟨(statusByte_dataSent hm s.dev).trans hd, .inl ⟨hp, (h.quiet hq).1, hd⟩, rfl⟩
  · obtain rfl := h.alone hp
    exact ⟨hb, .inr ⟨hp, hb⟩, by rw [h.absent hp]⟩

/-- A round of End comes back to the poll. -/
theorem endBody_vain {p : Position} {cs : List Position} (hm : s.cfg.mapped = true) (hx : s.port.left = none)
    (hf : s.dev.fault = none) (hsil : Silent s) (hs : s.seq = p :: cs) (ht : p.task = .op .endSend)
    (hr : p.loc.result = none) : ∃ t, (endBody s.cfg).run s = .error .poll t ∧ PollsInVain t := by
  obtain ⟨st, u, hpoll, hround⟩ := endBody_round hm hx
  obtain ⟨hbit, hsil', hf'⟩ := hpoll.silent hm hsil
  refine ⟨_, hround.trans (if_neg (by rw [hbit]; exact Bool.false_ne_true)),
    ⟨{ p with k := 0, loc := { p.loc with status := st } }, cs, ?_, decide_eq_true ⟨ht, rfl, hr⟩⟩,
    hpoll.complete hx, hpoll.cfg ▸ hm, hf'.trans hf, hsil'⟩
  show mapTop _ u.seq = _
  rw [hpoll.seq p cs hs]; rfl

/-- A step of such a node is another round, or takes what stands on its port. -/
theorem PollsInVain.step (h : PollsInVain s) : ∃ t, step s = .next t ∧ PollsInVain t := by
  obtain ⟨p, cs, hs, hp⟩ := h.polls
  obtain ⟨ht, -, hr⟩ := of_decide_eq_true hp
  cases hb : s.inbox with
  | none =>
    obtain ⟨t, hrun, hv⟩ := endBody_vain h.mapped h.complete h.healthy h.silent hs ht hr
    refine ⟨t, ?_, hv⟩
    rw [Machine.step, h.healthy, hb, serveInbox, resume, hs, resumeAt, if_pos hp, hrun, pollOver]
  | some b =>
    obtain ⟨r, hstep⟩ := step_busy (by rw [hs]; exact List.cons_ne_nil p cs) h.healthy hb
    exact ⟨_, hstep, h.polls, h.complete, h.mapped, h.healthy, h.silent⟩

theorem PollsInVain.hangs (h : PollsInVain s) : Hangs s :=
  hangs_of (I := PollsInVain) (fun t ht => by obtain ⟨p, cs, hs, -⟩ := ht.polls; rw [hs]; exact List.cons_ne_nil p cs)
    (fun _ ht => ht.step) h

/-- End, requested of a node whose polls will show nothing, hangs. -/
theorem endSend_hangs (h : Ready s) (hf : s.dev.fault = none) (hs : Silent s) : ∃ t, exec .endSend s = .next t ∧ Hangs t := by
  obtain ⟨t, hrun, hv⟩ := endBody_vain (s := begun (.op .endSend) s) h.2.2 h.2.1 hf hs rfl rfl rfl
  have hbody : (endBody s.cfg >>= fun st => pure (Reply.byte st)).run (begun (.op .endSend) s) = .error .poll t := by
    rw [EStateM.run_bind, show (endBody s.cfg).run (begun (.op .endSend) s) = _ from hrun]
  exact ⟨t, serve_waits (task := .op .endSend) h.1 hbody, hv.hangs⟩

/-- Send of no byte loads nothing, so its pulse sends nothing and its poll shows nothing (42_packet_io.md R195). -/
theorem sendBody_vain {c w : Byte} {buf : List Byte} (hm : s.cfg.mapped = true) (hx : s.port.left = none) (hq : Quiet s)
    (hce : s.ce = .low) (hf : s.dev.fault = none) (hc : s.cached s.cfg.regConfig = some c)
    (hw : withBit c s.cfg.bitPrimRx false = w) (hl : legalValue s.cfg s.cfg.regConfig c = true)
    (hcfg : Takes s s.cfg.regConfig) (hstat : Takes s s.cfg.regStatus) :
    ∃ t, (sendBody s.cfg 0 buf).run s = .error .poll t ∧ PollsInVain t := by
  obtain ⟨t1, st0, st1, hr1, hc1, done⟩ :=
    start_ok (n := 0) hm hx hq hc hw hl hcfg hstat (by decide) (Nat.zero_le buf.length) fun h => absurd rfl h
  have hdev1 : t1.dev = s.dev.started s.cfg w [] := done.device
  obtain ⟨hq1, -⟩ := hc1.quiet hq
  have hce1 := hc1.ce.trans hce
  have k := pulsed_pulsed (s := t1.entering (.op .initiate)) hq1 hce1
  have w2 := hc1.work.went.trans k.toWent.called.1
  have hdev2 : (initiated t1).dev = t1.dev := by
    refine (pulsed_idle (s := t1.entering (.op .initiate)) hq1 hce1 ?_).1
    rw [onDevice_present _ (hc1.cfg ▸ hcfg.1)]
    exact trigger_empty (congrArg Device.txFifo hdev1)
  have hq2 : Quiet (initiated t1) := ⟨k.env.trans hq1.1, by rw [hdev2]; exact hq1.2⟩
  have hsil : Silent (initiated t1) := .inl ⟨w2.cfg ▸ hcfg.1, hq2, by rw [hdev2, hdev1]; rfl⟩
  obtain ⟨t, hrun, hv⟩ := endBody_vain (s := (initiated t1).entering (.op .endSend)) (w2.cfg ▸ hm) (w2.complete hx)
    (by show (initiated t1).dev.fault = none; rw [hdev2, hdev1]; exact hf) hsil rfl rfl rfl
  refine ⟨t, ?_, hv⟩
  have hend : (endSend s.cfg).run (initiated t1) = .error .poll t := by
    rw [endSend, call_run, ← show ((initiated t1).entering (.op .endSend)).cfg = s.cfg from w2.cfg, hrun]; rfl
  rw [sendBody_started hr1, EStateM.run_bind, hend]

end

/-! The exchange. -/

/-- No exchange completes any more; the device's fault record is `f`. -/
def Jammed (f : Option DeviceFault) (s : State) : Prop := s.port.left = some 0 ∧ s.dev.fault = f

/-- The computation comes to an exchange, which does not complete. -/
abbrev Jams {α : Type} (f : Option DeviceFault) (m : Eng α) : Prop :=
  Spec (Jammed f) m (fun _ _ => False) fun w s => w = .shift ∧ s.dev.fault = f

section

variable {f : Option DeviceFault} {α β : Type} {m : Eng α}

theorem Jams.bind (h : Jams f m) (k : α → Eng β) : Jams f (m >>= k) := Spec.bind h fun _ _ hs => hs.elim

theorem Jams.call (h : Jams f m) (t : Task) : Jams f (call t m) := Spec.call h (fun _ hs => hs) fun _ _ hs => hs

theorem xchg_jams (shown : Bool) (out : Byte) : Jams f (xchg shown out) := by
  rintro s ⟨hl, hf⟩
  rw [xchg_run_eq, if_pos hl]
  exact ⟨rfl, (gap_fault s).trans hf⟩

theorem csnAssert_jammed {E : Wait → State → Prop} : Keep (Jammed f) E csnAssert := by
  rintro s ⟨hl, hf⟩
  refine ⟨(congrArg SerialPort.left (gap_port s)).trans hl, ?_⟩
  show ((gap s).onDevice Device.select).fault = f
  unfold State.onDevice
  split <;> exact (gap_fault s).trans hf

theorem ceLow_jammed {E : Wait → State → Prop} : Keep (Jammed f) E ceLow := fun s ⟨hl, hf⟩ =>
  ⟨(congrArg SerialPort.left (gap_port s)).trans hl, (gap_fault s).trans hf⟩

theorem jammed_blind : Blind (Jammed f) := fun _ _ h => h

/-- Every frame comes to its first exchange. -/
theorem frame_jams {shown : Bool} {op : Byte} {k : Byte → Eng α} : Jams f (csnAssert >>= fun _ => xchg shown op >>= k) :=
  Spec.bind csnAssert_jammed fun _ => (xchg_jams shown op).bind k

/-! The operations, each by its first frame. -/

theorem readRegister_jams (a : Byte) : Jams f (readRegister a) := frame_jams.call _
theorem writeRegister_jams (a d : Byte) : Jams f (writeRegister a d) := frame_jams.call _
theorem writeCommand_jams (b : Byte) : Jams f (writeCommand b) := frame_jams.call _
theorem writeValidatedBody_jams (a d : Byte) : Jams f (writeValidatedBody a d) := (writeRegister_jams a d).bind _
theorem clearFlagsBody_jams (c : Cfg) (b : Byte) : Jams f (clearFlagsBody c b) := writeRegister_jams _ _
theorem startBody_jams (c : Cfg) (n : Byte) (buf : List Byte) : Jams f (startBody c n buf) :=
  ((clearFlagsBody_jams c _).call _).bind _
theorem endBody_jams (c : Cfg) : Jams f (endBody c) := (writeCommand_jams _).bind _
theorem sendBody_jams (c : Cfg) (n : Byte) (buf : List Byte) : Jams f (sendBody c n buf) := ((startBody_jams c n buf).call _).bind _
theorem startListeningBody_jams (c : Cfg) : Jams f (startListeningBody c) := ((clearFlagsBody_jams c _).call _).bind _
theorem pollReceivedBody_jams (c : Cfg) : Jams f (pollReceivedBody c) := (writeCommand_jams _).bind _

theorem setModeBitBody_jams (c : Cfg) (b : Byte) : Jams f (setModeBitBody c b) :=
  Spec.bind (R := fun _ => Jammed f) Keep.get fun s => (writeValidatedBody_jams c.regConfig (s.modeByte b)).call _

theorem stopListeningBody_jams (c : Cfg) : Jams f (stopListeningBody c) :=
  Spec.bind ceLow_jammed fun _ => (writeCommand_jams _).call _

theorem writeFifoBody_jams (c : Cfg) {n : Byte} (hn : n ≠ 0) (buf : List Byte) : Jams f (writeFifoBody c n buf) := by
  rw [writeFifoBody, if_neg hn]; exact frame_jams

theorem readFifoBody_jams (c : Cfg) {n : Byte} (hn : n ≠ 0) : Jams f (readFifoBody c n) := by
  rw [readFifoBody, if_neg hn]; exact frame_jams

theorem initBody_jams (c : Cfg) : Jams f (initBody c) :=
  ((readRegister_jams Config.regLo).bind _ : Jams f (readBaseline baselineAddresses)).bind _

theorem bootBody_jams (c : Cfg) : Jams f (bootBody c) :=
  Spec.bind (Keep.internal jammed_blind fun _ h => h) fun _ => ((initBody_jams c).call _).bind _

theorem parentTickBody_jams (c : Cfg) : Jams f (parentTickBody c) :=
  Spec.bind (countTick_keeps jammed_blind (fun _ _ h => h) fun _ _ h => h) fun _ => ((pollReceivedBody_jams c).call _).bind _

theorem frameBody_jams (op : Byte) (data : List Byte) : Jams f (frameBody (op :: data)) :=
  Spec.bind csnAssert_jammed fun _ =>
    ((((xchg_jams true op).bind _ : Jams f (xchgKept true op)).bind _ : Jams f (exchangeAll (op :: data)))).bind _

end

/-! Instructions. -/

section

variable {s : State}

theorem Jams.waits {α : Type} {m : Eng α} (h : Jams s.dev.fault m) (hl : s.port.left = some 0) (t : Task) :
    ∃ u, m.run (begun t s) = .error .shift u ∧ u.dev.fault = s.dev.fault := by
  have := h (begun t s) ⟨hl, rfl⟩
  cases hr : m.run (begun t s) with
  | ok a u => rw [hr] at this; exact this.elim
  | error w u => rw [hr] at this; exact ⟨u, this.1 ▸ rfl, this.2⟩

/-- A body that waits still does so behind a check that passes. -/
theorem guarded_waits {t : Task} {why : State → Option RefuseReason} {m : Eng Reply} {w : Wait} {u : State}
    (hw : why (begun t s) = none) (hr : m.run (begun t s) = .error w u) :
    (guarded why m).run (begun t s) = .error w u :=
  (guarded_ok hw).trans hr

/-- From `s` the instruction comes to an exchange that does not complete. -/
def Jammable (i : Instr) (s : State) : Prop := ∃ u, exec i s = .next u ∧ Halted .shift u ∧ u.dev.fault = s.dev.fault

/-- An operation that comes to an exchange which does not complete waits in it. -/
theorem serve_jams {t : Task} {m : Eng Reply} (hf : Follows s.cfg t m id) (hs : s.seq = [])
    (hj : ∃ u, m.run (begun t s) = .error .shift u ∧ u.dev.fault = s.dev.fault) :
    ∃ u, serve t m s = .next u ∧ Halted .shift u ∧ u.dev.fault = s.dev.fault := by
  obtain ⟨u, hr, hfault⟩ := hj
  have stops := hf (accepted t s) s.unanswered rfl (Reach.refl _)
  rw [call_run, show m.run (s.unanswered.entering t) = _ from hr] at stops
  exact ⟨u, serve_waits hs hr, stops.2, hfault⟩

/-- The same of a request whose check has passed. -/
theorem request_jams {i : Instr} {α : Type} {m : Eng α} {r : α → Reply} {why : State → Option RefuseReason}
    (he : exec i s = serve (.op i) (guarded why (m >>= fun a => pure (r a))) s) (hf : Follows s.cfg (.op i) m r)
    (hj : Jams s.dev.fault m) (hs : s.seq = []) (hl : s.port.left = some 0) (hw : why (begun (.op i) s) = none) :
    Jammable i s := by
  have h : serve (.op i) (guarded why (m >>= fun a => pure (r a))) s = serve (.op i) (m >>= fun a => pure (r a)) s := by
    unfold serve
    rw [call_run, call_run, guarded_ok hw]
  rw [Jammable, he, h]
  exact serve_jams hf.map hs ((hj.bind _).waits hl _)

/-- A request that opens a frame whatever the state, once no exchange completes. -/
theorem request_jammable {i : Instr} (hi : isRequest i = true) (hx : exchanges i = true) (hs : s.seq = [])
    (hl : s.port.left = some 0) (hw : refusal s i = none) : Jammable i s := by
  cases i with
  | rRegister | wRegister | rRxPayload | wTxPayload | busFlushTx | busFlushRx | busNop => cases hi
  | initiate | getMode | childTick => cases hx
  | readRegister a => exact request_jams rfl (readRegister_follows _ a) frame_jams hs hl ((addressRefusal_eq a _).trans hw)
  | writeRegister a d => exact request_jams rfl (writeRegister_follows _ a d) frame_jams hs hl ((addressRefusal_eq a _).trans hw)
  | writeCommand d => exact request_jams rfl (writeCommand_follows _ d) frame_jams hs hl ((commandRefusal_eq d _).trans hw)
  | writeRegisterBurst a n buf =>
    exact request_jams rfl (writeRegisterBurst_follows _ a n buf _ rfl) frame_jams hs hl ((burstRefusal_eq a n _).trans hw)
  | writeValidated a d =>
    exact request_jams rfl (writeValidated_follows _ a d) (writeValidatedBody_jams a d) hs hl ((addressRefusal_eq a _).trans hw)
  | init => exact request_jams (why := accepts) rfl (init_follows _) (initBody_jams _) hs hl rfl
  | writeFifo n buf =>
    exact request_jams rfl (writeFifo_follows _ n buf) (writeFifoBody_jams _ (of_decide_eq_true hx) buf) hs hl
      ((lengthRefusal_eq n _).trans hw)
  | readFifo n =>
    exact request_jams rfl (readFifo_follows _ n) (readFifoBody_jams _ (of_decide_eq_true hx)) hs hl
      ((lengthRefusal_eq n _).trans hw)
  | flushTx => exact request_jams (why := accepts) rfl (flushTx_follows _) (writeCommand_jams _) hs hl rfl
  | flushRx => exact request_jams (why := accepts) rfl (flushRx_follows _) (writeCommand_jams _) hs hl rfl
  | clearFlags d => exact request_jams (why := accepts) rfl (clearFlags_follows _ d) (clearFlagsBody_jams _ d) hs hl rfl
  | send n buf =>
    obtain ⟨u, hrun, hfault⟩ := (sendBody_jams s.cfg n buf).waits hl (.op (.send n buf))
    exact serve_jams (send_follows _ n buf) hs ⟨u, guarded_waits (startRefusal_eq n _ |>.trans hw) hrun, hfault⟩
  | start n buf =>
    exact request_jams rfl (start_follows _ n buf) (startBody_jams _ n buf) hs hl ((startRefusal_eq n _).trans hw)
  | endSend => exact request_jams (why := accepts) rfl (endSend_follows _) (endBody_jams _) hs hl rfl
  | setModeBit d =>
    exact request_jams rfl (setModeBit_follows _ d) (setModeBitBody_jams _ d) hs hl ((cacheRefusal_eq _).trans hw)
  | startListening =>
    obtain ⟨u, hrun, hfault⟩ := (startListeningBody_jams s.cfg).waits hl (.op .startListening)
    exact serve_jams (startListening_follows _) hs ⟨u, guarded_waits (cacheRefusal_eq _ |>.trans hw) hrun, hfault⟩
  | stopListening => exact request_jams (why := accepts) rfl (stopListening_follows _) (stopListeningBody_jams _) hs hl rfl
  | pollReceived => exact request_jams (why := accepts) rfl (pollReceived_follows _) (pollReceivedBody_jams _) hs hl rfl
  | boot => exact request_jams (why := accepts) rfl (boot_follows _) (bootBody_jams _) hs hl rfl
  | parentTick => exact request_jams (why := accepts) rfl (parentTick_follows _) (parentTickBody_jams _) hs hl rfl

/-- So does every instruction that exchanges, raw frames included. -/
theorem exec_jammable {i : Instr} (hx : exchanges i = true) (hs : s.seq = []) (hl : s.port.left = some 0)
    (hf : s.dev.fault = none) (hw : refusal s i = none) : Jammable i s := by
  cases hi : isRequest i with
  | true => exact request_jammable hi hx hs hl hw
  | false =>
    obtain ⟨op, data, he⟩ := encode_frame_of_not_request s.cfg.toOpcodes hi
    obtain ⟨u, hserve, hhalt, hfault⟩ :=
      serve_jams (rawFrame_follows s.cfg (op :: data)) hs ((frameBody_jams op data).waits hl _)
    refine ⟨u, ?_, hhalt, hfault⟩
    rw [exec_frame he, runFrame, hserve, stopOnDeviceFault, hfault.trans hf, faultOr]

/-- An exchange that does not complete is waited for without end. -/
theorem Halted.hangs (h : Halted .shift s) (hf : s.dev.fault = none) : Hangs s :=
  hangs_of (I := fun t => Halted .shift t ∧ t.dev.fault = none) (fun _ ht => ht.1.busy) (fun _ ht => step_halted ht.1 ht.2)
    ⟨h, hf⟩

end

end Sys2Proof.Machine

namespace Sys2Proof

open Sys2Proof.Machine

/-- Settles O33: a poll that shows nothing comes back to itself, and so does an exchange that does not complete. -/
theorem theDataSentPollHangs : Obligations.TheDataSentPollHangs := by
  refine ⟨fun s h hq _ hp hf hd => endSend_hangs h hf (.inl ⟨hp, hq, hd⟩), fun s h _ hp hf hb => endSend_hangs h hf (.inr ⟨hp, hb⟩),
    fun s buf c h hq _ hf hi hce hc hl hcfg hstat => ?_, fun s h hf => h.hangs hf, fun i s hs hl hf hw hx => ?_⟩
  · obtain ⟨t, hrun, hv⟩ := sendBody_vain (s := begun (.op (.send 0 buf)) s) h.2.2 h.2.1 hq hce hf hc rfl hl hcfg hstat
    exact ⟨t, serve_waits h.1 (guarded_waits (startRefusal_none hi hce (show (0 : Byte) ≤ 32 by decide)) hrun), hv.hangs⟩
  · obtain ⟨u, hexec, hhalt, hfault⟩ := exec_jammable hx hs hl hf hw
    exact ⟨u, hexec, hhalt, hhalt.hangs (hfault.trans hf)⟩

end Sys2Proof
end

section
/-! ModeController (43_mode_controller.md): SetModeBit, StartListening, StopListening and GetMode as requests (R212 to R217). -/

namespace Sys2Proof.Machine

/-- The response after a read-back `v` of the byte `w` (41_transceiver_config.md R157). -/
theorem failIf_ne (v w : Byte) :
    Reply.failIf (decide (v ≠ w)) = { outcome := if v = w then .ok else .fail, d := 0, buf := [] } := by
  by_cases h : v = w <;> simp [Reply.failIf, h]

/-- A request whose computation moved the enable line, served to its return. -/
theorem request_went {i : Instr} {α : Type} {m : Eng α} {f : α → Reply} {why : State → Option RefuseReason} {s t : State}
    {v : α} (he : exec i s = serve (.op i) (guarded why (m >>= fun a => pure (f a))) s) (hs : s.seq = [])
    (hw : why (begun (.op i) s) = none) (hm : m.run (begun (.op i) s) = .ok v t) (w : Went (begun (.op i) s) t) :
    Returns i s (f v) (finishOperation (f v) t.leaving) :=
  guarded_returns he hs hw (by rw [EStateM.run_bind, hm]; rfl) w.inside

/-- GetMode performs no action. -/
theorem exec_getMode {s : State} (hs : s.seq = []) (hi : s.initialised = true) : exec .getMode s =
    .next (finishOperation (Reply.byte (engineMode s.cfg (s.cached s.cfg.regConfig) s.ce).code) s) :=
  exec_silent rfl hs (guarded_ok (cacheRefusal_none hi))

/-- The number of the mode of a cached byte (43_mode_controller.md R217). -/
theorem engineMode_some_code (c : Cfg) (v : Byte) (ce : Ce) : (engineMode c (some v) ce).code =
    if v.getLsbD c.bitPwrUp = false then 0
    else if ce = .low then 1 else if v.getLsbD c.bitPrimRx = false then 2 else 3 := by
  rw [engineMode, apply_ite Mode.code, apply_ite Mode.code, apply_ite Mode.code]
  rfl

/-! StartListening (R214). -/

/-- The byte StartListening writes has the mode bit receive. -/
theorem listenByte_primRx {c : Cfg} (hm : c.mapped = true) (v : Byte) :
    (withBit v c.bitPrimRx true).getLsbD c.bitPrimRx = true := by
  rw [withBit_bit _ _ _ _ (config_layout hm).1, if_pos rfl]

/-- The response of StartListening: `fail` when the byte read back is another. -/
theorem ite_plain_failIf (p : Prop) [Decidable p] :
    (if p then Reply.plain else Reply.failIf true) = { outcome := if p then .ok else .fail, d := 0, buf := [] } := by
  by_cases h : p <;> simp [Reply.plain, Reply.failIf, h]

/-- Raising the line or not, the operation goes on to its return. -/
theorem Work.went_lifted_if {s u : State} (h : Work s u) (p : Prop) [Decidable p] : Went s (if p then lifted u else u) := by
  split
  · exact h.went.trans (lifted_went u)
  · exact h.went

/-- Raising a line that is high already, on a quiet node, starts no burst. -/
theorem lifted_high_idle {u : State} (hq : Quiet u) (h : u.ce = .high) :
    (lifted u).dev.burst = none ∧ (lifted u).air = u.air := by
  rw [lifted_high hq h]
  exact ⟨hq.2, rfl⟩

/-- The mode-bit write leaves the flags as the clear before it left them. -/
theorem listened_flags {c : Cfg} (hm : c.mapped = true) {w : Byte} {d e : Device}
    (h : e = Device.inFrame .none ((d.clearFlags c c.flagsAll).setCell c c.regConfig (.known w) 0)) :
    e.dataReceived = false ∧ e.dataSent = false ∧ e.maxRetransmit = false := by
  rw [h, clearFlags_all hm]
  exact ⟨rfl, rfl, rfl⟩

end Sys2Proof.Machine

namespace Sys2Proof

open Sys2Proof.Machine

/-- Settles O39: the check passed, the mode is read from the cache and the line. -/
theorem getModeReadsTheCache : Obligations.GetModeReadsTheCache := by
  intro s hs hi
  rw [exec_getMode hs hi]
  cases s.cached s.cfg.regConfig with
  | none => rfl
  | some c => rw [engineMode_some_code]; rfl

/-- Settles O36: SetModeBit is the validated write of the cached byte with the mode bit replaced. -/
theorem setModeBitWritesTheCachedByte : Obligations.SetModeBitWritesTheCachedByte := by
  rintro s m c w h hi hc rfl
  obtain ⟨t, st, v, hr, hcl, hca, htr, -, hcell, hval, -⟩ :=
    setModeBitBody_ok m (s := begun (.op (.setModeBit m)) s) h.2.2 h.2.1 hc
  have hret := request_returns rfl h.1 (cacheRefusal_none hi) hr hcl.work
  rw [failIf_ne] at hret
  refine ⟨_, st, v, hret, htr, cached_validated (named_le h.2.2 regConfig_named) hca, hcl.ce, hcl.csn, fun htakes hl => ?_⟩
  have stored := cell_store_takes_eq (d := s.dev) htakes.2 (named_writable h.2.2 regConfig_named) (config_ne_status h.2.2)
    (named_le h.2.2 regConfig_named) (.inl (modeByte_legal (m.getLsbD 0) hl))
  exact ⟨hval htakes.1 _ stored, (hcell htakes.1 _ 0).trans stored⟩

/-- Settles O37: up to the read-back StartListening touches no line, and the byte read back decides whether it is raised; a
device in receive mode, or a line that is high already, triggers no burst. -/
theorem startListeningRaisesTheLineLast : Obligations.StartListeningRaisesTheLineLast := by
  intro s c w h hi hc hw
  obtain ⟨t, u, st, v, hr, ht, hwork, htr, hcached, hca, -, -, htaken, -, hdev⟩ :=
    startListeningBody_ok (s := begun (.op .startListening) s) h.2.2 h.2.1 hc hw.symm
  have hret := guarded_returns rfl h.1 (cacheRefusal_none hi) hr (ht ▸ hwork.went_lifted_if (v = w)).inside
  rw [ite_plain_failIf] at hret
  rw [flagsAll_eq] at htr
  have others : ∀ b ≠ s.cfg.regConfig, u.cached b = s.cached b := fun b hb => (hcached b).trans (if_neg fun e => hb e.2)
  refine ⟨_, st, v, hret, ?_⟩
  by_cases hv : v = w
  · -- The line is raised.
    rw [if_pos hv] at ht
    subst ht
    refine ⟨?_, fun _ => ⟨lifted_ce u, ?_⟩, fun hne => absurd hv hne,
      fun b hb => (State.cached_congr (lifted_cache u) b).trans (others b hb), (lifted_csn u).trans hwork.csn,
      fun hce hq => ?_, fun htakes hl => ⟨hv, (lifted_cell u _ _ _).trans (htaken htakes hl).2⟩,
      fun htakes hl hstat hq => ?_⟩
    · show (lifted u).trace = _
      rw [lifted_trace, htr, if_pos hv]; rfl
    · exact (State.cached_congr (lifted_cache u) _).trans ((hcached _).trans (if_pos ⟨hv, rfl⟩))
    · obtain ⟨hq', hair, -⟩ := hwork.quiet hq
      obtain ⟨hburst, hair'⟩ := lifted_high_idle hq' (hwork.ce.trans hce)
      exact ⟨hburst, hair'.trans hair⟩
    · have hrx : w.getLsbD s.cfg.bitPrimRx = true := hw ▸ listenByte_primRx h.2.2 c
      obtain ⟨same, hq', -⟩ := lifted_receive (hwork.quiet hq).1 fun _ =>
        ⟨w, by rw [hwork.cfg]; exact ⟨(htaken htakes hl).2, hrx⟩⟩
      obtain ⟨hrecv, hsent, hmax⟩ := listened_flags h.2.2 (same.trans (hdev htakes hl hstat hq))
      exact ⟨hrecv, hsent, hmax, hq'.2⟩
  · -- Nothing follows the read-back.
    rw [if_neg hv] at ht
    subst ht
    refine ⟨?_, fun e => absurd e hv, fun _ => ⟨hwork.ce, hca hv⟩, others, hwork.csn, fun _ hq => ?_,
      fun htakes hl => absurd (htaken htakes hl).1 hv, fun htakes hl => absurd (htaken htakes hl).1 hv⟩
    · show t.trace = _
      rw [htr, if_neg hv]; rfl
    · obtain ⟨hq', hair, -⟩ := hwork.quiet hq
      exact ⟨hq'.2, hair⟩

/-- Settles O38: with the line low nothing arrives before the flush. -/
theorem stopListeningEmptiesTheFifo : Obligations.StopListeningEmptiesTheFifo := by
  intro s h
  obtain ⟨t, st, hr, hw, hcsn, hce, hca, htr, hcell, hempty, -, -, hq⟩ :=
    stopListeningBody_ok (s := begun (.op .stopListening) s) h.2.2 h.2.1
  exact ⟨_, st, request_went (f := Reply.byte) (why := accepts) rfl h.1 rfl hr hw, htr, hce, hcsn, hca, hcell _, hempty, hq⟩

end Sys2Proof
end

section
/-! The enable line (43_mode_controller.md R218): which actions move it, and the pulse of Initiate, which ends where it began
since every instruction that pulses the line is refused when it is high (42_packet_io.md R191, R192). -/

namespace Sys2Proof.Machine

/-- A node with configuration `c` whose enable line is at the level given. -/
def LineAt (c : Cfg) (l : Ce) (s : State) : Prop := s.cfg = c ∧ s.ce = l

/-- Actions of this kind leave the enable line alone. -/
def Effect.HoldsLine : Effect → Prop
  | .ceHigh => False
  | .ceLow => False
  | .board => False
  | _ => True

/-- The computation leaves the enable line at its level, whether it returns or waits. -/
abbrev KeepsLine {α : Type} (c : Cfg) (l : Ce) (m : Eng α) : Prop := Keep (LineAt c l) (fun _ => LineAt c l) m

section

variable {c : Cfg} {l : Ce}

theorem lineAt_neutral (c : Cfg) (l : Ce) : Neutral c (LineAt c l) := ⟨fun _ h => h.1, fun _ _ h => h, fun _ _ h => h⟩

theorem lineAt_gap {s : State} (h : LineAt c l s) : LineAt c l (gap s) := ⟨(gap_cfg s).trans h.1, (gap_ce s).trans h.2⟩

theorem Effect.HoldsLine.keeps {e : Effect} (h : e.HoldsLine) : e.Keeps (LineAt c l) := by
  cases e with
  | ceHigh | ceLow | board => exact h.elim
  | frame op =>
    exact fun limit => ⟨LineAt c l, fun _ => LineAt c l,
      { opened := fun _ => lineAt_gap
        opcode := fun _ _ => lineAt_gap
        opcodeStuck := fun _ h _ => lineAt_gap h
        data := fun _ _ _ _ _ => lineAt_gap
        dataStuck := fun _ _ _ _ h _ => lineAt_gap h
        noted := fun _ _ _ h => h
        closed := fun _ _ _ => lineAt_gap }⟩
  | wait => exact fun _ _ => lineAt_gap
  | cache | tickdiv | countdown => exact fun _ _ h => h
  | initialise | arm | alert | sample => exact fun _ h => h

theorem start_holdsLine : ∀ e ∈ startEffects c, e.HoldsLine := by simp [Effect.HoldsLine]

theorem end_holdsLine : ∀ e ∈ endEffects c, e.HoldsLine := by simp [Effect.HoldsLine]

/-- The pulse of a low line leaves it low. -/
theorem pulse_keeps_line : KeepsLine c .low initiateBody := fun s h =>
  ⟨(((lifted_went s).trans (waited_went _ _)).trans (dropped_went _)).cfg.trans h.1, dropped_ce _⟩

/-- Initiate passes its check with the line low only. -/
theorem initiate_keeps_line (c : Cfg) (l : Ce) :
    KeepsLine c l (guarded initiateRefusal (initiateBody >>= fun _ => pure Reply.plain)) :=
  guarded_keeps fun s hs hw => by
    rw [initiateRefusal_eq] at hw
    cases l with
    | low => exact reply_keeps pulse_keeps_line
    | high => rw [if_pos hs.2] at hw; cases hw

/-- Send passes its check with the line low only. -/
theorem send_keeps_line (c : Cfg) (l : Ce) (n : Byte) (buf : List Byte) :
    KeepsLine c l (guarded (startRefusal n) (sendBody c n buf)) :=
  guarded_keeps fun s hs hw => by
    have hb := (lineAt_neutral c l).blind
    rw [startRefusal_eq] at hw
    cases l with
    | low =>
      exact sendBody_keeps hb (start_keeps hb (fun e he => (start_holdsLine e he).keeps) n buf) pulse_keeps_line
        (end_keeps hb fun e he => (end_holdsLine e he).keeps)
    | high => rw [if_pos hs.2] at hw; split_ifs at hw

theorem childTick_keeps_line (c : Cfg) (l : Ce) : KeepsLine c l (childTickBody c) :=
  have hb := (lineAt_neutral c l).blind
  Keep.bind Keep.get fun _ => Keep.ite
    (fun _ => Keep.bind (Keep.internal hb fun _ h => h) fun _ => Keep.bind (sampleSensor_keeps hb fun _ h => h) fun _ =>
      Keep.bind (Keep.call hb (send_keeps_line c l _ _)) fun _ => evaluate_keeps _ hb fun _ _ h => h)
    fun _ => Keep.internal hb fun _ h => h

end

/-- An instruction that may not move the line either performs no action that does, or pulses it. -/
theorem exec_keeps_line {i : Instr} {s t : State} {l : Ce} (hi : mayMoveLine i = false) (h : exec i s = .next t)
    (hs : LineAt s.cfg l s) : LineAt s.cfg l t := by
  have k := lineAt_neutral s.cfg l
  have hold : (∀ e ∈ effects s.cfg i, e.HoldsLine) → LineAt s.cfg l t := fun he =>
    k.exec (fun e hmem => (he e hmem).keeps) h hs
  cases i with
  | startListening | stopListening | boot | parentTick => cases hi
  | initiate => exact k.serve h hs (initiate_keeps_line s.cfg l)
  | send n buf => exact k.serve h hs (send_keeps_line s.cfg l n buf)
  | childTick => exact k.serve h hs (reply_keeps (childTick_keeps_line s.cfg l))
  | writeValidated =>
    exact hold (forall_mem_guarded.mpr fun _ => forall_validatedEffects.mpr ⟨trivial, trivial, trivial⟩)
  | rRegister | wRegister | rRxPayload | wTxPayload | busFlushTx | busFlushRx | busNop | readRegister | writeRegister
  | writeCommand | writeRegisterBurst | init | writeFifo | readFifo | flushTx | flushRx | clearFlags | start
  | endSend | setModeBit | getMode | pollReceived => exact hold (by simp [effects, Effect.HoldsLine])

end Sys2Proof.Machine

namespace Sys2Proof

open Sys2Proof.Machine

/-- Settles O58: only the pulse moves the line, and only from low. -/
theorem enableLineFrame : Obligations.EnableLineFrame := fun _ _ _ h hi => (exec_keeps_line hi h ⟨rfl, rfl⟩).2

end Sys2Proof
end

section
/-! The coding of a reading (44_telemetry_loop.md R234) and PollReceived (R233). -/

namespace Sys2Proof.Machine

/-! Readings. -/

/-- The two bytes of a reading put together again. -/
theorem join_halves (r : Reading) : ((r.extractLsb' 8 8).setWidth 16 <<< 8) ||| (r.extractLsb' 0 8).setWidth 16 = r := by
  refine BitVec.eq_of_getLsbD_eq fun i hi => ?_
  rw [BitVec.getLsbD_or, BitVec.getLsbD_shiftLeft, BitVec.getLsbD_setWidth, BitVec.getLsbD_setWidth, BitVec.getLsbD_extractLsb',
    BitVec.getLsbD_extractLsb']
  by_cases h : i < 8
  · simp [h, hi]
  · simp [h, hi, show i - 8 < 8 by omega, show i - 8 < 16 by omega, show 8 + (i - 8) = i by omega]

theorem decode16_encode16 (e : Endian) (r : Reading) : decode16 e (encode16 e r) = r := by
  cases e with
  | little => exact join_halves r
  | big => exact join_halves r

/-- The number a high and a low byte stand for. -/
theorem joined_toNat (hi lo : Byte) : ((hi.setWidth 16 <<< 8) ||| lo.setWidth 16 : Reading).toNat = hi.toNat * 256 + lo.toNat := by
  have hh := hi.isLt
  have hl := lo.isLt
  have shifted : (hi.setWidth 16 <<< 8 : Reading).toNat = hi.toNat <<< 8 := by
    rw [BitVec.toNat_shiftLeft, BitVec.toNat_setWidth, Nat.mod_eq_of_lt (by omega), Nat.mod_eq_of_lt (by omega)]
  rw [BitVec.toNat_or, shifted, BitVec.toNat_setWidth, Nat.mod_eq_of_lt (by omega), ← Nat.shiftLeft_add_eq_or_of_lt hl,
    Nat.shiftLeft_eq]

/-! PollReceived. -/

/-- The operation: one no-op command, and the test of its status byte. -/
theorem pollReceivedBody_ok {s : State} (hm : s.cfg.mapped = true) (hx : s.port.left = none) :
    ∃ t st, (pollReceivedBody s.cfg).run s = .ok (dataReceivedBit s.cfg st) t ∧ Called s t ∧ Commanded s.cfg.opcNop st s t := by
  obtain ⟨t, st, hr, hf, hc⟩ :=
    writeCommandBody_commanded (b := s.cfg.opcNop) (s := s.entering (.op (.writeCommand s.cfg.opcNop))) hm (.inr (.inr rfl)) hx
  exact ⟨t.leaving, st, by rw [pollReceivedBody, EStateM.run_bind, writeCommand, call_ok hr]; rfl, hf.work.called, hc⟩

theorem pollReceived_ok {s : State} (hm : s.cfg.mapped = true) (hx : s.port.left = none) :
    ∃ t st, (pollReceived s.cfg).run s = .ok (dataReceivedBit s.cfg st) t ∧ Called s t ∧ Commanded s.cfg.opcNop st s t := by
  obtain ⟨t, st, hr, hcall, hc⟩ := pollReceivedBody_ok (s := s.entering (.op .pollReceived)) hm hx
  exact ⟨t.leaving, st, call_ok hr, hcall.work.called, hc⟩

/-- A quiet device is left as it was, and the bit tested is its flag. -/
theorem Commanded.polled {s t : State} {st : Byte} (h : Commanded s.cfg.opcNop st s t) (hm : s.cfg.mapped = true)
    (hp : s.cfg.present = true) (hq : Quiet s) :
    dataReceivedBit s.cfg st = s.dev.dataReceived ∧ t.dev = { s.dev with frame := .none } := by
  obtain ⟨-, -, -, -, -, -, -, -, -, quiet⟩ := h
  obtain ⟨hd, rfl⟩ := quiet hp hq
  exact ⟨statusByte_dataReceived hm s.dev, by rw [hd, command_nop hm]; rfl⟩

end Sys2Proof.Machine

namespace Sys2Proof

open Sys2Proof.Machine

/-- Settles O51: a reading is its two halves, and each byte order decodes as it encodes. -/
theorem payloadCoding : Obligations.PayloadCoding := fun e r => ⟨decode16_encode16 e r, rfl, rfl⟩

/-- Settles O40: the status byte of the one command is what is tested, and a no-op clears no flag. -/
theorem pollReceivedTestsTheFlag : Obligations.PollReceivedTestsTheFlag := by
  intro s h
  obtain ⟨t, st, hr, hcall, hc⟩ := pollReceivedBody_ok (s := begun (.op .pollReceived) s) h.2.2 h.2.1
  have ⟨htr, hca, _, hce, _, habs, ⟨hrecv, _⟩, _⟩ := hc
  exact ⟨_, st, request_returns (f := fun b => Reply.byte (flagBit b 0)) (why := accepts) rfl h.1 rfl hr hcall.work, htr, hca, hce,
    habs, hrecv, fun hp hq => hc.polled h.2.2 hp hq⟩

end Sys2Proof
end

section
/-! What the operations of a tick routine leave of the host (44_telemetry_loop.md R231, R236, R239): the divider, the countdown
and the alerts are the routine's own business. -/

namespace Sys2Proof.Machine

/-- From `s` to `t` nothing was counted, sampled or sounded. -/
structure SameHost (s t : State) : Prop where
  cfg : t.cfg = s.cfg
  countdown : t.countdown = s.countdown
  tickdiv : t.tickdiv = s.tickdiv
  sensor : t.sensor = s.sensor
  alerts : ∀ p, alerts p t.trace = alerts p s.trace

/-- An action of this kind counts, samples and sounds nothing. -/
def Effect.OffHost : Effect → Prop
  | .alert _ => False
  | .sample => False
  | .tickdiv => False
  | .countdown => False
  | _ => True

section

variable {c : Cfg} {s t u : State}

theorem SameHost.refl (s : State) : SameHost s s := ⟨rfl, rfl, rfl, rfl, fun _ => rfl⟩

theorem SameHost.trans (h : SameHost s t) (k : SameHost t u) : SameHost s u :=
  ⟨k.cfg.trans h.cfg, k.countdown.trans h.countdown, k.tickdiv.trans h.tickdiv, k.sensor.trans h.sensor,
    fun p => (k.alerts p).trans (h.alerts p)⟩

theorem counted_sameHost (f : Locals → Locals) (s : State) : SameHost s (counted f s) := ⟨rfl, rfl, rfl, rfl, fun _ => rfl⟩

theorem sameHost_blind (s : State) : Blind (SameHost s) := fun _ _ h => ⟨h.cfg, h.countdown, h.tickdiv, h.sensor, h.alerts⟩

theorem Effect.OffHost.keeps {e : Effect} (h : e.OffHost) (s : State) : e.Keeps (SameHost s) :=
  Effect.keeps_of_spares fun _ _ k hu =>
    { cfg := k.cfg.trans hu.cfg
      countdown := (k.countdown (by rintro rfl; exact h)).trans hu.countdown
      tickdiv := (k.tickdiv (by rintro rfl; exact h)).trans hu.tickdiv
      sensor := (k.sensor (by rintro rfl; exact h)).trans hu.sensor
      alerts := fun p => (k.alerts p (by rintro rfl; exact h)).trans (hu.alerts p) }

theorem sameHost_allKept {l : List Effect} (h : ∀ e ∈ l, e.OffHost) (s : State) : AllKept (SameHost s) l :=
  fun e he => (h e he).keeps s

/-- What a computation keeps holds where it returns. -/
theorem Keep.returned {α : Type} {D : State → Prop} {E : Wait → State → Prop} {m : Eng α} {v : α} (h : Keep D E m) (hs : D s)
    (hr : m.run s = .ok v t) : D t := by
  have := h s hs
  rwa [hr] at this

/-- An operation called, from where its caller stood to its return. -/
theorem call_sameHost {α : Type} {task : Task} {m : Eng α} {v : α} (h : Keep (SameHost s) (fun _ => SameHost s) m)
    (hr : (call task m).run s = .ok v t) : SameHost s t := (Keep.call (sameHost_blind s) h).returned (.refl s) hr

theorem pollReceived_sameHost {v : Bool} (h : (pollReceived c).run s = .ok v t) : SameHost s t :=
  call_sameHost (pollReceivedBody_keeps (sameHost_blind s)
    (commandFrame_keeps (Effect.OffHost.keeps (e := .frame c.opcNop) trivial s))) h

theorem readFifo_sameHost {n : Byte} {v : List Byte} (h : (readFifo c n).run s = .ok v t) : SameHost s t :=
  call_sameHost (fetchFrame_keeps (Effect.OffHost.keeps (e := .frame c.opcRRxPayload) trivial s) n) h

theorem stopListening_sameHost {v : Byte} (h : (stopListening c).run s = .ok v t) : SameHost s t :=
  call_sameHost (stop_keeps (sameHost_blind s) (sameHost_allKept (by simp [Effect.OffHost]) s)) h

theorem startListening_sameHost {v : Reply} (h : (startListening c).run s = .ok v t) : SameHost s t :=
  call_sameHost (Keep.guarded (listen_keeps (sameHost_blind s) (sameHost_allKept (by simp [Effect.OffHost]) s))) h

theorem send_sameHost {n : Byte} {buf : List Byte} {v : Reply} (h : (send c n buf).run s = .ok v t) : SameHost s t :=
  call_sameHost (Keep.guarded (send_keeps (sameHost_blind s) (sameHost_allKept (by simp [Effect.OffHost]) s) n buf)) h

end

/-! Alerts. -/

/-- The state after `Evaluate(r)` (R235). -/
def judged (r : Reading) (s : State) : State :=
  if Config.threshold ≤ r.toNat then (s.alerted .overThreshold).advanced else s

theorem evaluate_run (r : Reading) (s : State) : (evaluate r).run s = .ok () (judged r s) := by
  unfold evaluate judged
  split <;> rfl

/-- Nothing but the sequencer and the trace is touched. -/
theorem judged_eq (r : Reading) (s : State) : ∃ q, (∀ p, SameCallers p s.seq → SameCallers p q) ∧ judged r s =
    { s with seq := q, trace := (if 763 ≤ r.toNat then [.alert .overThreshold] else []) ++ s.trace } := by
  by_cases h : 763 ≤ r.toNat
  · exact ⟨advance s.seq, fun _ hp => hp.advance, by rw [judged, if_pos (show Config.threshold ≤ r.toNat from h), if_pos h]; rfl⟩
  · exact ⟨s.seq, fun _ hp => hp, by rw [judged, if_neg (show ¬ Config.threshold ≤ r.toNat from h), if_neg h]; rfl⟩

/-- One alert more, or none. -/
theorem alerts_judged (r : Reading) (l : List TraceEvent) :
    alerts .overThreshold ((if 763 ≤ r.toNat then [.alert .overThreshold] else []) ++ l) =
        alerts .overThreshold l + (if 763 ≤ r.toNat then 1 else 0) ∧
      alerts .linkDown ((if 763 ≤ r.toNat then [.alert .overThreshold] else []) ++ l) = alerts .linkDown l := by
  by_cases h : 763 ≤ r.toNat <;> simp [h, alerts]

end Sys2Proof.Machine
end

section
/-! ChildTick (44_telemetry_loop.md R236): the divider, the sample, the send whose outcome is not tested, the alert. -/

namespace Sys2Proof.Machine

/-! The body. -/

/-- A tick that is not the `CHILD_DIV`-th. -/
theorem childTickBody_skips {s : State} (h : s.tickdiv + 1 ≠ s.cfg.childDiv) :
    (childTickBody s.cfg).run s = .ok () (s.withTickdiv (s.tickdiv + 1)).advanced := by
  simp [childTickBody, EStateM.run_bind, h]

/-- The divider is reset, the sensor sampled, the reading a local value of the tick. -/
def measured (s : State) : State :=
  { s with
    seq := mapTop (fun p => { p with loc := { p.loc with reading := s.nextReading } }) (advance (advance s.seq))
    tickdiv := 0
    sensor := s.sensor.tail
    draws := s.draws + 1 }

theorem measured_callers {q : List Position} {s : State} (h : SameCallers q s.seq) : SameCallers q (measured s).seq :=
  (h.advance.advance).mapTop _

/-- The bytes of a reading, as the tick hands them to Send. -/
abbrev readingBuffer (c : Cfg) (r : Reading) : List Byte := bufferOf (encode16 c.hostEndian r)

/-- A tick that is: whatever the send answers, the reading is evaluated. -/
theorem childTickBody_samples {s t : State} {r : Reply} (h : s.tickdiv + 1 = s.cfg.childDiv)
    (hsend : (send s.cfg Config.payloadLen (readingBuffer s.cfg s.nextReading)).run (measured s) = .ok r t) :
    (childTickBody s.cfg).run s = .ok () (judged s.nextReading t) := by
  have sample : sampleSensor.run (s.withTickdiv 0).advanced = .ok s.nextReading (measured s) := rfl
  simp only [childTickBody, EStateM.run_bind, EStateM.run_get, h, if_true, internal_run, sample, hsend, evaluate_run]

/-- What Send loads is the two bytes of the reading. -/
theorem payload_reading (c : Cfg) (r : Reading) : payload Config.payloadLen (readingBuffer c r) = encode16 c.hostEndian r := by
  rw [readingBuffer]
  cases c.hostEndian <;> rfl

theorem readingBuffer_length (c : Cfg) (r : Reading) : Config.payloadLen.toNat ≤ (readingBuffer c r).length := by
  rw [readingBuffer]
  cases c.hostEndian <;> exact (by decide : 2 ≤ 32)

/-! The request. -/

/-- What an idle engine answers to a request: the state its operation leaves, idle again, with the response on the port. -/
theorem exec_served {i : Instr} {α : Type} {m : Eng α} {f : α → Reply} {v : α} {s t : State}
    (he : exec i s = serve (.op i) (m >>= fun a => pure (f a)) s) (hs : s.seq = []) (hm : m.run (begun (.op i) s) = .ok v t)
    (hc : SameCallers (begun (.op i) s).seq t.seq) : exec i s = .next { t with seq := s.seq, resp := some (f v) } := by
  have hrun : (m >>= fun a => pure (f a)).run (begun (.op i) s) = .ok (f v) t := by rw [EStateM.run_bind, hm]; rfl
  obtain ⟨hserve, hidle⟩ := serve_ok hs hrun hc
  have idle : popped t.seq = s.seq := Eq.trans hidle hs.symm
  rw [he, hserve, ← idle]
  rfl

section

variable {s t : State} {r : Reply} (hs : s.seq = []) (h : s.tickdiv + 1 = s.cfg.childDiv)
  (hsend : (send s.cfg Config.payloadLen (readingBuffer s.cfg s.nextReading)).run (measured (begun (.op .childTick) s)) = .ok r t)
  (hin : ∀ q, SameCallers q (measured (begun (.op .childTick) s)).seq → SameCallers q t.seq)
include hs h hsend hin

/-- A sampling tick whose send has returned returns. -/
theorem childTick_exec : exec .childTick s = .next { t with
      seq := s.seq
      resp := some Reply.plain
      trace := (if 763 ≤ s.nextReading.toNat then [.alert .overThreshold] else []) ++ t.trace } := by
  obtain ⟨q, hq, he⟩ := judged_eq s.nextReading t
  have hrun : (childTickBody s.cfg).run (begun (.op .childTick) s) = .ok () (judged s.nextReading t) :=
    childTickBody_samples h hsend
  rw [he] at hrun
  exact exec_served (f := fun _ => Reply.plain) rfl hs hrun (hq _ (hin _ (measured_callers (begun_callers _ _))))

/-- What a sampling tick leaves of the host, whatever becomes of its send (R235, R236). -/
theorem childTick_returns :
    ∃ u, Returns .childTick s Reply.plain u ∧ u.tickdiv = 0 ∧ u.sensor = s.sensor.tail ∧ u.air = t.air ∧ u.ce = t.ce ∧
      u.cache = t.cache ∧ (∀ e, (∀ p, e ≠ .alert p) → u.trace.count e = t.trace.count e) ∧
      alerts .overThreshold u.trace = alerts .overThreshold s.trace + (if 763 ≤ s.nextReading.toNat then 1 else 0) ∧
      alerts .linkDown u.trace = alerts .linkDown s.trace := by
  have host := send_sameHost hsend
  obtain ⟨hover, hdown⟩ := alerts_judged s.nextReading t.trace
  refine ⟨_, ⟨childTick_exec hs h hsend hin, hs, rfl⟩, host.tickdiv, host.sensor, rfl, rfl, rfl, fun e he => ?_,
    hover.trans (congrArg (· + _) (host.alerts _)), hdown.trans (host.alerts _)⟩
  show List.count e ((if _ then _ else _) ++ t.trace) = _
  split
  · exact List.count_cons_of_ne (Ne.symm (he _))
  · rfl

end

/-- The engine refuses Send before Init and with the enable line high (42_packet_io.md R195). -/
theorem send_refused {s : State} (h : s.initialised = false ∨ s.ce = .high) (c : Cfg) (n : Byte) (buf : List Byte) :
    ∃ why, (send c n buf).run s = .ok (Reply.refusedFor why) { s with seq := advance s.seq } := by
  obtain ⟨why, hw⟩ : ∃ why, startRefusal n (s.entering (.op (.send n buf))) = some why := by
    rw [startRefusal_eq]
    by_cases hi : s.initialised = false
    · exact ⟨_, if_pos hi⟩
    · exact ⟨_, (if_neg hi).trans (if_pos (h.resolve_left hi))⟩
  refine ⟨why, ?_⟩
  rw [send, call_run, guarded_run, hw]
  rfl

/-- Send on a quiet, initialised device that is powered up and takes its writes puts one frame on the air. -/
theorem send_ok {n c : Byte} {buf : List Byte} {s : State} (hm : s.cfg.mapped = true) (hx : s.port.left = none) (hq : Quiet s)
    (hi : s.initialised = true) (hce : s.ce = .low) (hc : s.cached s.cfg.regConfig = some c)
    (hl : legalValue s.cfg s.cfg.regConfig c = true) (hup : c.getLsbD s.cfg.bitPwrUp = true) (hcfg : Takes s s.cfg.regConfig)
    (hstat : Takes s s.cfg.regStatus) (hn : n ≠ 0) (h32 : n ≤ 32) (hb : n.toNat ≤ buf.length) (hd : 1 ≤ s.cfg.txDepth)
    (htx : s.cfg.txCompletes = true) :
    ∃ t f, (send s.cfg n buf).run s = .ok Reply.plain t ∧ (∀ q, SameCallers q s.seq → SameCallers q t.seq) ∧
      t.air = s.air ++ [f] ∧ f.payload = payload n buf := by
  obtain ⟨t, t1, -, -, hr, -, hcallers, -, -, -, -, hair, -⟩ :=
    sendBody_ok (s := s.entering (.op (.send n buf))) hm hx hq hce hc rfl hl hup hcfg hstat hn h32 hb hd htx
  refine ⟨t.leaving, _, call_ok ((guarded_ok (s := s.entering _) (startRefusal_none hi hce h32)).trans hr), fun q h => ?_, hair, rfl⟩
  have hp := (hcallers _ (.start (p := ⟨.op (.send n buf), 0, Locals.start⟩) (r := s.seq))).popped
  show SameCallers q (popped t.seq)
  rw [hp]
  exact h.advance

/-- One whose mode-bit write is not taken stops after three frames, before any pulse (R191). -/
theorem send_mismatch {n c b : Byte} {buf : List Byte} {s : State} (hm : s.cfg.mapped = true) (hx : s.port.left = none)
    (hi : s.initialised = true) (hce : s.ce = .low) (hc : s.cached s.cfg.regConfig = some c) (hp : s.cfg.present = true)
    (hst : s.cfg.regConfig ∈ s.cfg.stuck) (hcell : s.dev.cell s.cfg s.cfg.regConfig 0 = some (.known b))
    (hne : b ≠ withBit c s.cfg.bitPrimRx false) (h32 : n ≤ 32) :
    ∃ t, (send s.cfg n buf).run s = .ok (Reply.failIf true) t ∧ Called s t ∧ t.cache = s.cache ∧
      framesOpened t.trace = framesOpened s.trace + 3 ∧ t.trace.count .ceHigh = s.trace.count .ceHigh := by
  obtain ⟨t, st, hr, hwork, hca, htr⟩ := startBody_mismatch
    (s := (s.entering (.op (.send n buf))).entering (.op (.start n buf))) (n := n) (buf := buf) hm hx hc rfl hp hst hcell hne
  have hrun := sendBody_mismatch (s := s.entering (.op (.send n buf))) hr
  refine ⟨_, call_ok ((guarded_ok (s := s.entering _) (startRefusal_none hi hce h32)).trans hrun), hwork.called.work.called, hca,
    ?_, ?_⟩
  · show t.trace.count _ = s.trace.count _ + 3
    rw [htr]; simp
  · show t.trace.count _ = s.trace.count _
    rw [htr]; simp

end Sys2Proof.Machine

namespace Sys2Proof

open Sys2Proof.Machine

/-- Settles O42: the send of a sampling tick is carried out, refused or stopped at its mode bit; the divider, the sample and the
alert are the same each time. -/
theorem childTickSamplesAndSends : Obligations.ChildTickSamplesAndSends := by
  refine ⟨fun s hs hd => ?_, fun s r c h hq hd hr hi hce htx hc hcached hl hup hcfg hstat => ?_, fun s hs hd hw => ?_,
    fun s c b h hd hi hce hc hp hst hcell hne => ?_⟩
  · -- No sample.
    exact exec_served (f := fun _ => Reply.plain) rfl hs (childTickBody_skips (s := begun (.op .childTick) s) hd)
      (begun_callers _ _).advance
  · -- The send is carried out.
    subst hr
    obtain ⟨t, f, hsend, hin, hair, hpay⟩ := send_ok (s := measured (begun (.op .childTick) s)) (n := Config.payloadLen)
      (buf := readingBuffer s.cfg s.nextReading) h.2.2 h.2.1 hq hi hce hcached hl hup hcfg hstat (by decide) (by decide)
      (readingBuffer_length _ _) htx hc
    obtain ⟨u, hret, hdiv, hsen, hair', -, -, -, halerts⟩ := childTick_returns h.1 hd hsend hin
    refine ⟨u, f, hret, hdiv, hsen, hair'.trans hair, ?_, halerts⟩
    rw [hpay, payload_reading]
    cases s.cfg.hostEndian <;> rfl
  · -- The send is refused.
    obtain ⟨why, hsend⟩ := send_refused (s := measured (begun (.op .childTick) s)) hw s.cfg Config.payloadLen
      (readingBuffer s.cfg s.nextReading)
    exact childTick_exec hs hd hsend fun _ hq => hq.advance
  · -- The mode bit is not taken.
    obtain ⟨t, hsend, hcall, hca, hframes, hpulse⟩ := send_mismatch (s := measured (begun (.op .childTick) s))
      (n := Config.payloadLen) (buf := readingBuffer s.cfg s.nextReading) h.2.2 h.2.1 hi hce hc hp hst hcell hne (by decide)
    obtain ⟨u, hret, hdiv, hsen, -, hce', hca', hcount, halerts⟩ := childTick_returns h.1 hd hsend hcall.work.callers
    exact ⟨u, hret, hdiv, hsen, hce'.trans (hcall.ce.trans hce), hca'.trans hca, (hcount .csnAssert nofun).trans hframes,
      (hcount .ceHigh nofun).trans hpulse, halerts⟩

end Sys2Proof
end

section
/-! StartListening and StopListening as sub-operations (43_mode_controller.md R214, R215). -/

namespace Sys2Proof.Machine

/-- The byte StartListening writes when the cached byte is `c`. -/
abbrev listenByte (k : Cfg) (c : Byte) : Byte := withBit c k.bitPrimRx true

/-- From `s` to `t` StartListening went by: `c` is the cached configuration byte it found, `v` the byte read back. -/
structure Listened (c v : Byte) (s t : State) : Prop extends Went s t where
  csn : t.csn = .deasserted
  ce : t.ce = if v = listenByte s.cfg c then .high else s.ce
  trace : t.trace.map TraceEvent.outline = (if v = listenByte s.cfg c then [.ceHigh] else []) ++
    (listenTokens s.cfg (listenByte s.cfg c)).reverse ++ s.trace.map TraceEvent.outline
  cached : ∀ b, t.cached b = if v = listenByte s.cfg c ∧ b = s.cfg.regConfig then some v else s.cached b
  alone : s.cfg.present = false → v = s.cfg.absentByte
  others : ∀ b ≠ s.cfg.regConfig, ∀ i, t.dev.cell s.cfg b i = s.dev.cell s.cfg b i
  taken : Takes s s.cfg.regConfig → legalValue s.cfg s.cfg.regConfig c = true →
    v = listenByte s.cfg c ∧ t.dev.cell s.cfg s.cfg.regConfig 0 = some (.known v)
  dropped : s.cfg.present = true → s.cfg.regConfig ∈ s.cfg.stuck → ∀ b, s.dev.cell s.cfg s.cfg.regConfig 0 = some (.known b) →
    v = b ∧ t.dev.cell s.cfg s.cfg.regConfig 0 = some (.known b)
  device : Takes s s.cfg.regConfig → legalValue s.cfg s.cfg.regConfig c = true → Takes s s.cfg.regStatus → Quiet s →
    t.dev.rxFifo = s.dev.rxFifo ∧ t.dev.dataReceived = false

/-- The tokens of StartListening up to the read-back, newest first. -/
theorem listenTokens_reverse {k : Cfg} {w : Byte} : (listenTokens k w).reverse =
    [.csnDeassert, .xchg Config.dummy none, .xchg (readOpcode k.regConfig) none, .csnAssert,
      .csnDeassert, .xchg w none, .xchg (writeOpcode k.regConfig) none, .csnAssert,
      .csnDeassert, .xchg k.flagsAll none, .xchg (writeOpcode k.regStatus) none, .csnAssert] := by
  rw [flagsAll_eq]; rfl

section

variable {s : State}

theorem startListening_ok {c : Byte} (hm : s.cfg.mapped = true) (hx : s.port.left = none) (hi : s.initialised = true)
    (hc : s.cached s.cfg.regConfig = some c) :
    ∃ t v r, (startListening s.cfg).run s = .ok r t ∧ t.seq = advance s.seq ∧ Listened c v s t := by
  obtain ⟨_, u, st, v, hr, rfl, hwork, htr, hcached, -, habs, hothers, htaken, hdropped, hdev⟩ :=
    startListeningBody_ok (s := s.entering (.op .startListening)) hm hx hc rfl
  have hrun := call_ok ((guarded_ok (s := s.entering (.op .startListening)) (cacheRefusal_none hi)).trans hr)
  have hcached : ∀ b, u.cached b = if v = listenByte s.cfg c ∧ b = s.cfg.regConfig then some v else s.cached b := fun b => by
    by_cases hv : v = listenByte s.cfg c
    · rw [hcached, hv]; rfl
    · rw [hcached, if_neg fun e => hv e.1, if_neg fun e => hv e.1]; rfl
  have htr : u.trace.map TraceEvent.outline =
      (listenTokens s.cfg (listenByte s.cfg c)).reverse ++ s.trace.map TraceEvent.outline := by
    rw [htr, listenTokens_reverse]; rfl
  obtain ⟨hwent, hseq⟩ := (hwork.went_lifted_if (v = listenByte s.cfg c)).called
  refine ⟨(if v = listenByte s.cfg c then lifted u else u).leaving, v, _, hrun, hseq, ?_⟩
  by_cases hv : v = listenByte s.cfg c
  · -- The line is raised.
    have hcell : ∀ b i, (lifted u).dev.cell s.cfg b i = u.dev.cell s.cfg b i := lifted_cell u s.cfg
    rw [if_pos hv] at hwent ⊢
    exact
      { hwent with
        csn := (lifted_csn u).trans hwork.csn
        ce := by rw [if_pos hv]; exact lifted_ce u
        trace := by rw [if_pos hv, List.append_assoc, ← htr]; exact congrArg _ (lifted_trace u)
        cached := fun b => (State.cached_congr (lifted_cache u) b).trans (hcached b)
        alone := habs
        others := fun b hb i => (hcell b i).trans (hothers b hb i)
        taken := fun ht hl => ⟨hv, hv ▸ (hcell _ _).trans (htaken ht hl).2⟩
        dropped := fun hp hst b hb => ⟨(hdropped hp hst b hb).1, (hcell _ _).trans (hdropped hp hst b hb).2⟩
        device := fun ht hl hstat hq => by
          obtain ⟨same, -⟩ := lifted_receive (hwork.quiet hq).1 fun _ =>
            ⟨_, by rw [hwork.cfg]; exact ⟨(htaken ht hl).2, listenByte_primRx hm c⟩⟩
          have hu := hdev ht hl hstat hq
          exact ⟨(congrArg Device.rxFifo (same.trans hu)).trans rfl, (listened_flags hm (same.trans hu)).1⟩ }
  · -- Nothing follows the read-back.
    rw [if_neg hv] at hwent ⊢
    exact
      { hwent with
        csn := hwork.csn
        ce := by rw [if_neg hv]; exact hwork.ce
        trace := by rw [if_neg hv, List.nil_append, ← htr]; rfl
        cached := hcached
        alone := habs
        others := hothers
        taken := fun ht hl => absurd (htaken ht hl).1 hv
        dropped := hdropped
        device := fun ht hl => absurd (htaken ht hl).1 hv }

theorem stopListening_ok (hm : s.cfg.mapped = true) (hx : s.port.left = none) :
    ∃ t st, (stopListening s.cfg).run s = .ok st t ∧ Went s t ∧ t.seq = advance s.seq ∧ t.cache = s.cache ∧
      (s.cfg.present = true → t.dev.rxFifo = []) ∧ (Quiet s → Quiet t) := by
  obtain ⟨t, st, hr, hw, -, -, hca, -, -, hempty, -, hq, -⟩ :=
    stopListeningBody_ok (s := s.entering (.op .stopListening)) hm hx
  exact ⟨t.leaving, st, call_ok hr, hw.called.1, hw.called.2, hca, hempty, fun h => (hq h).1⟩

end

end Sys2Proof.Machine
end

section
/-! ParentTick (44_telemetry_loop.md R239 to R242): the countdown, the poll, and the payload taken when there is one. -/

namespace Sys2Proof.Machine

/-! The countdown (R239, R241). -/

/-- The decrement and its zero test, on a countdown of at least 1. -/
theorem countTick_ok {s : State} (h : 1 ≤ s.countdown) :
    ∃ q l, countTick.run s = .ok ()
        { s with seq := q, countdown := if s.countdown = 1 then 10 else s.countdown - 1, trace := l } ∧
      (∀ p, SameCallers p s.seq → SameCallers p q) ∧
      alerts .linkDown l = alerts .linkDown s.trace + (if s.countdown = 1 then 1 else 0) ∧
      alerts .overThreshold l = alerts .overThreshold s.trace := by
  by_cases h1 : s.countdown = 1
  · refine ⟨advance (advance (advance s.seq)), .alert .linkDown :: s.trace, ?_, fun _ hp => hp.advance.advance.advance, ?_, ?_⟩
    · simp only [countTick, EStateM.run_bind, EStateM.run_get, internal_run, h1, Nat.sub_self, if_true, soundAlert]
      rfl
    · rw [if_pos h1]; exact List.count_cons_self
    · simp [alerts]
  · refine ⟨mapTop (fun p => { p with k := 3 }) (advance s.seq), s.trace, ?_, fun _ hp => hp.advance.mapTop _, ?_, rfl⟩
    · have more : ¬ s.countdown - 1 = 0 := by omega
      simp only [countTick, EStateM.run_bind, EStateM.run_get, internal_run, more, h1, if_false, skipTo_run]
      rfl
    · rw [if_neg h1]; rfl

/-- The tick counts, polls, and takes the payload if the poll says so (R239). -/
theorem parentTickBody_run {c : Cfg} {s u t : State} {b : Bool} (hcount : countTick.run s = .ok () u)
    (hpoll : (pollReceived c).run u = .ok b t) :
    (parentTickBody c).run s = if b = true then (takePayload c).run t else .ok () t := by
  simp only [parentTickBody, EStateM.run_bind, hcount, hpoll]
  cases b <;> rfl

/-- From `s` to `t` a tick of a quiet Parent has counted and polled. -/
structure Ticked (s t : State) : Prop where
  cfg : t.cfg = s.cfg
  callers : ∀ q, SameCallers q s.seq → SameCallers q t.seq
  complete : t.port.left = none
  quiet : Quiet t
  initialised : t.initialised = s.initialised
  countdown : t.countdown = if s.countdown = 1 then 10 else s.countdown - 1
  linkDown : alerts .linkDown t.trace = alerts .linkDown s.trace + (if s.countdown = 1 then 1 else 0)
  overThreshold : alerts .overThreshold t.trace = alerts .overThreshold s.trace
  dev : t.dev = { s.dev with frame := .none }
  cache : t.cache = s.cache
  ce : t.ce = s.ce
  air : t.air = s.air

/-- What follows is decided by the device's flag. -/
theorem parentTickBody_ticked {s : State} (hm : s.cfg.mapped = true) (hx : s.port.left = none) (hq : Quiet s)
    (hc : 1 ≤ s.countdown) (hp : s.cfg.present = true) :
    ∃ t, Ticked s t ∧ (parentTickBody s.cfg).run s =
      if s.dev.dataReceived = true then (takePayload s.cfg).run t else .ok () t := by
  obtain ⟨q, l, hcount, hin, hdown, hover⟩ := countTick_ok hc
  obtain ⟨t, st, hpoll, hcall, hcmd⟩ := pollReceived_ok
    (s := { s with seq := q, countdown := if s.countdown = 1 then 10 else s.countdown - 1, trace := l }) hm hx
  have host := pollReceived_sameHost hpoll
  obtain ⟨hbit, hdev⟩ := hcmd.polled hm hp hq
  obtain ⟨-, hca, -⟩ := hcmd
  obtain ⟨hquiet, hair, -⟩ := hcall.quiet hq
  have hrun := parentTickBody_run hcount hpoll
  rw [hbit] at hrun
  exact ⟨t, ⟨hcall.cfg, fun p h => hcall.work.callers _ (hin p h), hcall.complete hx, hquiet, hcall.initialised, hcall.countdown,
    (host.alerts _).trans hdown, (host.alerts _).trans hover, hdev, hca, hcall.ce, hair⟩, hrun⟩

/-! The tick without a reception. -/

/-- The tick of a quiet Parent that has received nothing; the next one finds it ready and quiet. -/
theorem parentTick_idle {s : State} (h : Ready s) (hq : Quiet s) (hc : 1 ≤ s.countdown) (hp : s.cfg.present = true)
    (hd : s.dev.dataReceived = false) :
    ∃ t, Returns .parentTick s Reply.plain t ∧ Ready t ∧ Quiet t ∧ t.cfg = s.cfg ∧
      t.countdown = (if s.countdown = 1 then 10 else s.countdown - 1) ∧
      alerts .linkDown t.trace = alerts .linkDown s.trace + (if s.countdown = 1 then 1 else 0) ∧
      alerts .overThreshold t.trace = alerts .overThreshold s.trace ∧
      t.dev = { s.dev with frame := .none } ∧ t.cache = s.cache ∧ t.ce = s.ce ∧ t.air = s.air := by
  obtain ⟨hs, hx, hm⟩ := h
  obtain ⟨t, ht, hbody⟩ := parentTickBody_ticked (s := begun (.op .parentTick) s) hm hx hq hc hp
  have hrun := hbody.trans (if_neg (ne_true_of_eq_false hd))
  have hexec := exec_served (f := fun _ => Reply.plain) rfl hs hrun (ht.callers _ (begun_callers _ _))
  exact ⟨_, ⟨hexec, hs, rfl⟩, ⟨hs, ht.complete, (congrArg Cfg.mapped ht.cfg).trans hm⟩, ht.quiet, ht.cfg, ht.countdown,
    ht.linkDown, ht.overThreshold, ht.dev, ht.cache, ht.ce, ht.air⟩

/-- Ticks without a reception, from the `m`-th on since the countdown was 10 (R241). -/
theorem parentTicks_idle (n m : Nat) {s : State} (h : Ready s) (hq : Quiet s) (hc : s.countdown = 10 - m % 10)
    (hp : s.cfg.present = true) (hd : s.dev.dataReceived = false) :
    ∃ t, parentTicks n s = some t ∧ t.countdown = 10 - (m + n) % 10 ∧
      alerts .linkDown t.trace + m / 10 = alerts .linkDown s.trace + (m + n) / 10 := by
  induction n generalizing m s with
  | zero => exact ⟨s, rfl, hc, rfl⟩
  | succ n ih =>
    obtain ⟨u, hret, hready, hquiet, hcfg, hcount, hdown, -, hdev, -⟩ := parentTick_idle h hq (by omega) hp hd
    have hnext : u.countdown = 10 - (m + 1) % 10 := by rw [hcount]; split <;> omega
    obtain ⟨t, hrun, hcount', hdown'⟩ :=
      ih (m + 1) hready hquiet hnext (hcfg.symm ▸ hp) (by rw [hdev]; exact hd)
    refine ⟨t, ?_, by rw [hcount', Nat.add_right_comm, Nat.add_assoc], ?_⟩
    · rw [parentTicks, hret.1]; exact hrun
    · rw [hdown] at hdown'
      split at hdown' <;> omega

/-! The payload taken (R240). -/

/-- The number two payload bytes stand for, in the host's byte order (R234). -/
theorem decode16_toNat (e : Endian) (b0 b1 : Byte) : (decode16 e [b0, b1]).toNat =
    match e with
    | .little => b1.toNat * 256 + b0.toNat
    | .big => b0.toNat * 256 + b1.toNat := by
  cases e with
  | little => exact joined_toNat b1 b0
  | big => exact joined_toNat b0 b1

section

variable {s : State} {b0 b1 c : Byte} {more : List Byte} {rest : List (List Byte)}

/-- What ReadFifo of two bytes returns of a longer head. -/
theorem readFifo_pair (hm : s.cfg.mapped = true) (hx : s.port.left = none) (hq : Quiet s) (hp : s.cfg.present = true)
    (hf : s.dev.rxFifo = (b0 :: b1 :: more) :: rest) :
    ∃ t, (readFifo s.cfg Config.payloadLen).run s = .ok [b0, b1] t ∧ Called s t ∧ t.cache = s.cache := by
  obtain ⟨t, st, bytes, hr, hcall, hca, hlen, -, -, -, hquiet⟩ := readFifo_ok (n := Config.payloadLen) (by decide) hm hx
  obtain ⟨-, -, hhead⟩ := hquiet hp hq
  have same : bytes = [b0, b1] := by
    refine List.ext_getElem? fun i => ?_
    rcases Nat.lt_or_ge i 2 with hi | hi
    · rw [hhead _ _ hf i hi (Nat.lt_of_lt_of_le hi (by simp))]
      interval_cases i <;> rfl
    · rw [List.getElem?_eq_none (hlen.trans_le hi), List.getElem?_eq_none hi]
  exact ⟨t, same ▸ hr, hcall, hca⟩

theorem noteLocals_counted (f : Locals → Locals) (s : State) : (noteLocals f).run s = .ok () (counted f s) := rfl

/-- A note among the local values is no activity. -/
theorem counted_work (f : Locals → Locals) (h : s.csn = .deasserted) : Work s (counted f s) :=
  ⟨Kept.ofSeq s _, h, fun _ hq => hq.mapTop _⟩

/-- The head payload read, the FIFO flushed with the line low, Listening re-armed, the reading evaluated. -/
theorem takePayload_ok (hm : s.cfg.mapped = true) (hx : s.port.left = none) (hq : Quiet s) (hp : s.cfg.present = true)
    (hf : s.dev.rxFifo = (b0 :: b1 :: more) :: rest) (hi : s.initialised = true) (hc : s.cached s.cfg.regConfig = some c)
    (hl : legalValue s.cfg s.cfg.regConfig c = true) (hcfg : Takes s s.cfg.regConfig) (hstat : Takes s s.cfg.regStatus) :
    ∃ t, (takePayload s.cfg).run s = .ok () t ∧ (∀ q, SameCallers q s.seq → SameCallers q t.seq) ∧ t.countdown = 10 ∧
      t.dev.rxFifo = [] ∧ t.dev.dataReceived = false ∧ t.ce = .high ∧
      t.cached s.cfg.regConfig = some (listenByte s.cfg c) ∧ alerts .linkDown t.trace = alerts .linkDown s.trace ∧
      alerts .overThreshold t.trace =
        alerts .overThreshold s.trace + (if 763 ≤ (decode16 s.cfg.hostEndian [b0, b1]).toNat then 1 else 0) := by
  obtain ⟨t1, hr1, h1, hca1⟩ := readFifo_pair hm hx hq hp hf
  have k1 := h1.work.trans (counted_work (fun l => { l with buf := [b0, b1] }) h1.csn)
  have w1 := k1.went
  obtain ⟨t2, st, hr2, h2, -, hca2, hempty, hq2⟩ := stopListening_ok (s := counted _ t1) (w1.cfg ▸ hm) (w1.complete hx)
  have w2 := w1.trans h2
  have hc2 : t2.cached t2.cfg.regConfig = some c := by
    rw [w2.cfg, State.cached_congr (hca2.trans hca1)]; exact hc
  obtain ⟨t3, v, r, hr3, -, h3⟩ := startListening_ok (w2.cfg ▸ hm) (w2.complete hx) (w2.initialised.trans hi) hc2
  have hcfg2 : Takes t2 t2.cfg.regConfig := by rw [Takes, w2.cfg]; exact hcfg
  have hstat2 : Takes t2 t2.cfg.regStatus := by rw [Takes, w2.cfg]; exact hstat
  have hl2 : legalValue t2.cfg t2.cfg.regConfig c = true := by rw [w2.cfg]; exact hl
  obtain ⟨hv, -⟩ := h3.taken hcfg2 hl2
  obtain ⟨hfifo, hrecv⟩ := h3.device hcfg2 hl2 hstat2 (hq2 (k1.quiet hq).1)
  have host := (((readFifo_sameHost hr1).trans (counted_sameHost _ t1)).trans (stopListening_sameHost hr2)).trans
    (startListening_sameHost hr3)
  obtain ⟨q, hin, he⟩ := judged_eq (decode16 s.cfg.hostEndian [b0, b1]) (t3.withCountdown 10).advanced
  obtain ⟨hover, hdown⟩ := alerts_judged (decode16 s.cfg.hostEndian [b0, b1]) t3.trace
  rw [w1.cfg] at hr2
  rw [w2.cfg] at hr3
  refine ⟨judged (decode16 s.cfg.hostEndian [b0, b1]) (t3.withCountdown 10).advanced, ?_, ?_⟩
  · have reset : (internal (State.withCountdown Config.linkMax)).run t3 = .ok () (t3.withCountdown 10).advanced := rfl
    simp only [takePayload, EStateM.run_bind, hr1, noteLocals_counted, hr2, hr3, reset, evaluate_run]
  rw [he]
  have hempty := hempty ((congrArg Cfg.present w1.cfg).trans hp)
  refine ⟨fun p hp => hin _ (h3.callers _ (w2.callers _ hp)).advance, rfl, hfifo.trans hempty, hrecv, ?_, ?_,
    hdown.trans (host.alerts _), hover.trans (congrArg (· + _) (host.alerts _))⟩
  · exact h3.ce.trans (if_pos hv)
  · show t3.cached _ = _
    rw [h3.cached, w2.cfg, if_pos ⟨by rw [hv, w2.cfg], rfl⟩, hv, w2.cfg]

end

end Sys2Proof.Machine

namespace Sys2Proof

open Sys2Proof.Machine

/-- Settles O43: the poll of a quiet device with the flag clear ends the tick. -/
theorem parentTickWithoutReception : Obligations.ParentTickWithoutReception := by
  intro s h hq hc hp hd
  obtain ⟨t, hret, -, -, -, hrest⟩ := parentTick_idle h hq hc hp hd
  exact ⟨t, hret, hrest⟩

/-- Settles O44: the flag is set, so the payload is taken; the decrement before it has already sounded link-down, if it does. -/
theorem parentTickTakesOnePayload : Obligations.ParentTickTakesOnePayload := by
  intro s b0 b1 c more rest h hq hc hp hd hf hi hcached hl hcfg hstat
  obtain ⟨hs, hx, hm⟩ := h
  obtain ⟨t, ht, hbody⟩ := parentTickBody_ticked (s := begun (.op .parentTick) s) hm hx hq hc hp
  have hcfg' : t.cfg = s.cfg := ht.cfg
  have htakes : ∀ a, Takes s a → Takes t a := fun a ha => by rw [Takes, hcfg']; exact ha
  obtain ⟨u, htake, hin, hcount, hfifo, hrecv, hce, hcached', hdown, hover⟩ := takePayload_ok (s := t) (c := c) (b0 := b0) (b1 := b1)
    (more := more) (rest := rest) (hcfg'.symm ▸ hm) ht.complete ht.quiet (hcfg'.symm ▸ hp) (by rw [ht.dev]; exact hf)
    (ht.initialised.trans hi) (by rw [hcfg', State.cached_congr ht.cache]; exact hcached) (by rw [hcfg']; exact hl)
    (by rw [hcfg']; exact htakes _ hcfg) (by rw [hcfg']; exact htakes _ hstat)
  rw [hcfg'] at htake hcached' hover
  have hrun := (hbody.trans (if_pos hd)).trans htake
  have hexec := exec_served (f := fun _ => Reply.plain) rfl hs hrun (hin _ (ht.callers _ (begun_callers _ _)))
  rw [decode16_toNat, ht.overThreshold] at hover
  exact ⟨_, ⟨hexec, hs, rfl⟩, hcount, hfifo, hrecv, hce, hcached', hdown.trans ht.linkDown, hover⟩

/-- Settles O45: by induction on the ticks, from any place in the ten. -/
theorem linkDownFiresEveryTenthTick : Obligations.LinkDownFiresEveryTenthTick := by
  intro s h hq hc hp hd n
  obtain ⟨t, hrun, hcount, hdown⟩ := parentTicks_idle n 0 h hq hc hp hd
  rw [Nat.zero_add] at hcount hdown
  exact ⟨t, hrun, hcount, hdown⟩

end Sys2Proof
end

section
/-! Boot (44_telemetry_loop.md R232): BoardInit, Init, on the Parent StartListening, and the tick source armed. -/

namespace Sys2Proof.Machine

/-- Init as a sub-operation (41_transceiver_config.md R159 to R164). -/
theorem initialise_ok {s : State} (hm : s.cfg.mapped = true) (hx : s.port.left = none) :
    ∃ t rc, (initialise s.cfg).run s = .ok rc t ∧ t.cfg = s.cfg ∧ t.seq = advance s.seq ∧ t.port.left = none ∧
      t.initialised = true ∧ t.csn = .deasserted ∧ t.ce = s.ce ∧
      t.trace.map TraceEvent.outline = (initTokens s.cfg).reverse ++ s.trace.map TraceEvent.outline ∧
      Stored s (initWrites s.cfg) t ∧ Recorded s (initValues s.cfg) rc t := by
  obtain ⟨u, hr, hu⟩ := initBody_ok (s := s.entering (.op .init)) hm hx .start rfl
  refine ⟨_, u.resultCode, call_ok hr, hu.cfg, hu.inside.advance.popped, hu.complete hx, rfl, ?_, hu.ce, hu.trace,
    ⟨hu.stored.written, hu.stored.others⟩, ⟨hu.recorded.tried, hu.recorded.clear, hu.recorded.baseline⟩⟩
  exact hu.csn.trans (if_pos (by simp [initTokens, initValues, validatedTokens, frameTokens]))

/-- The node as BoardInit leaves it, in an operation (70_reset_and_hazards.md R322; log 39). -/
def boarded (s : State) : State := s.boardInitialised.advanced

/-- The node after Init, its result code kept among Boot's local values. -/
def inited (rc : Byte) (s : State) : State := counted (fun l => { l with rc := rc }) s

/-- What Boot does after Init. -/
def bootRest (c : Cfg) (rc : Byte) : Eng Byte := do
  if c.role = .parent then
    let _ ← startListening c
  internal State.armed
  return rc

theorem bootBody_run {c : Cfg} {s u : State} {rc : Byte} (h : (initialise c).run (boarded s) = .ok rc u) :
    (bootBody c).run s = (bootRest c rc).run (inited rc u) := by
  have board : boardInit.run s = .ok () (boarded s) := rfl
  simp only [bootBody, EStateM.run_bind, board, h]
  rfl

/-- From `i`, after Init, to `v`, before the tick source is armed: nothing on the Child, StartListening on the Parent. -/
def RoleServed (i v : State) : Prop :=
  (i.cfg.role = .child ∧ v = i) ∨
    (i.cfg.role = .parent ∧ ∃ c b, i.cached i.cfg.regConfig = some c ∧ Listened c b i v)

theorem bootRest_ok {i : State} (hm : i.cfg.mapped = true) (hx : i.port.left = none) (hi : i.initialised = true)
    (hc : i.cached i.cfg.regConfig ≠ none) (rc : Byte) :
    ∃ v, (bootRest i.cfg rc).run i = .ok rc v.armed.advanced ∧ (∀ q, SameCallers q i.seq → SameCallers q v.seq) ∧
      v.initialised = true ∧ RoleServed i v := by
  cases hrole : i.cfg.role with
  | child =>
    refine ⟨i, ?_, fun _ h => h, hi, .inl ⟨hrole, rfl⟩⟩
    simp only [bootRest, hrole]
    rfl
  | parent =>
    obtain ⟨c, hc⟩ := Option.ne_none_iff_exists'.mp hc
    obtain ⟨v, b, r, hr, -, hl⟩ := startListening_ok hm hx hi hc
    refine ⟨v, ?_, hl.callers, hl.initialised.trans hi, .inr ⟨hrole, c, b, hc, hl⟩⟩
    simp only [bootRest, hrole, if_true, EStateM.run_bind, hr]
    rfl

/-- What arming the tick source and returning leave alone. -/
structure LeftAlone (v t : State) : Prop where
  ce : t.ce = v.ce
  csn : t.csn = v.csn
  trace : t.trace = v.trace
  cache : t.cache = v.cache
  dev : t.dev = v.dev

/-! The registers and the cache, from Init to the return. -/

/-- The byte a validated register holds after Boot: the value of Init, with the mode bit receive on the Parent. -/
def bootByte (c : Cfg) (p : Byte × Byte) : Byte :=
  if c.role = .parent ∧ p.1 = c.regConfig then listenByte c p.2 else p.2

theorem bootValues_getElem {c : Cfg} {k : Nat} (h : k < (bootValues c).length) (h' : k < (initValues c).length) :
    (bootValues c)[k]'h = ((initValues c)[k].1, bootByte c (initValues c)[k]) := by
  simp only [bootValues, List.getElem_map]
  rfl

/-- The first of the validated writes is that of the configuration register (41_transceiver_config.md R161). -/
theorem initValues_config {c : Cfg} (hm : c.mapped = true) : (initValues c)[0]? = some (c.regConfig, c.configInit) := by
  rw [initValues_eq hm]; rfl

/-- On the Parent: power-up, CRC on, CRC of two bytes, receive (10_state.md R29). -/
theorem bootByte_parent {c : Cfg} (hrole : c.role = .parent) :
    bootByte c (c.regConfig, c.configInit) = onesAt [c.bitPwrUp, c.bitEnCrc, c.bitCrco, c.bitPrimRx] := by
  rw [bootByte, if_pos ⟨hrole, rfl⟩]
  refine BitVec.eq_of_getLsbD_eq fun j hj => ?_
  rw [configInit_eq, withBit_bit _ _ _ _ hj, withBit_bit _ _ _ _ hj, onesAt_bit _ hj, onesAt_bit _ hj]
  by_cases h : j = c.bitPrimRx <;> simp [h]

/-- The configuration byte after Boot is powered up. -/
theorem bootByte_pwrUp {c : Cfg} (hm : c.mapped = true) : (bootByte c (c.regConfig, c.configInit)).getLsbD c.bitPwrUp = true := by
  obtain ⟨-, hup, hne⟩ := config_layout hm
  have init : c.configInit.getLsbD c.bitPwrUp = true := by
    rw [configInit_eq, withBit_bit _ _ _ _ hup, if_neg hne, onesAt_bit _ hup]
    simp
  rw [bootByte]
  split
  · rw [listenByte, withBit_bit _ _ _ _ hup, if_neg hne, init]
  · exact init

/-- Powered up with the line low, the mode is Standby (10_state.md R39). -/
theorem engineMode_standby {c : Cfg} {x : Byte} (hup : x.getLsbD c.bitPwrUp = true) : engineMode c (some x) .low = .standby := by
  rw [engineMode, hup]; rfl

/-- Powered up in receive mode with the line high, it is Listening. -/
theorem engineMode_listening {c : Cfg} {x : Byte} (hup : x.getLsbD c.bitPwrUp = true) (hrx : x.getLsbD c.bitPrimRx = true) :
    engineMode c (some x) .high = .listening := by
  rw [engineMode, hup, hrx]; rfl

/-- The mode bit set twice. -/
theorem withBit_withBit (v : Byte) (j : Nat) (b b' : Bool) : withBit (withBit v j b) j b' = withBit v j b' :=
  BitVec.eq_of_getLsbD_eq fun k hk => by
    simp only [withBit_bit _ _ _ _ hk]
    split <;> rfl

theorem listenByte_listenByte (k : Cfg) (c : Byte) : listenByte k (listenByte k c) = listenByte k c := withBit_withBit ..

/-- Setting a bit changes nothing exactly when it is set. -/
theorem eq_withBit_true {v : Byte} {j : Nat} (hj : j < 8) : v = withBit v j true ↔ v.getLsbD j = true := by
  refine ⟨fun h => ?_, fun h => BitVec.eq_of_getLsbD_eq fun k hk => ?_⟩
  · rw [h, withBit_bit _ _ _ _ hj, if_pos rfl]
  · rw [withBit_bit _ _ _ _ hk]
    split
    · next e => rw [e, h]
    · rfl

section

variable {i v : State}

theorem RoleServed.csn (h : RoleServed i v) (hn : i.csn = .deasserted) : v.csn = .deasserted := by
  obtain ⟨-, rfl⟩ | ⟨-, c, b, -, hl⟩ := h
  · exact hn
  · exact hl.csn

/-- StartListening concerns the configuration register alone. -/
theorem RoleServed.others (h : RoleServed i v) {a : Byte} (ha : a ≠ i.cfg.regConfig) :
    v.cached a = i.cached a ∧ ∀ j, v.dev.cell i.cfg a j = i.dev.cell i.cfg a j := by
  obtain ⟨-, rfl⟩ | ⟨-, c, b, -, hl⟩ := h
  · exact ⟨rfl, fun _ => rfl⟩
  · exact ⟨(hl.cached a).trans (if_neg fun e => ha e.2), hl.others a ha⟩

/-- An entry that is a byte stays one. -/
theorem RoleServed.filled (h : RoleServed i v) {a : Byte} (ha : i.cached a ≠ none) : v.cached a ≠ none := by
  obtain ⟨-, rfl⟩ | ⟨-, c, b, -, hl⟩ := h
  · exact ha
  · rw [hl.cached]
    split
    · exact Option.some_ne_none b
    · exact ha

/-- Without a device every byte read is the same. -/
theorem RoleServed.alone (h : RoleServed i v) (hp : i.cfg.present = false) {a : Byte} (ha : i.cached a = some i.cfg.absentByte) :
    v.cached a = some i.cfg.absentByte := by
  obtain ⟨-, rfl⟩ | ⟨-, c, b, -, hl⟩ := h
  · exact ha
  · rw [hl.cached, hl.alone hp, ha, ite_self]

/-- A register that has taken its value in device and cache. -/
theorem RoleServed.taken (h : RoleServed i v) {p : Byte × Byte} (ht : Takes i p.1) (hl : legalValue i.cfg p.1 p.2 = true)
    (hd : i.dev.cell i.cfg p.1 0 = some (.known p.2)) (hc : i.cached p.1 = some p.2) :
    v.dev.cell i.cfg p.1 0 = some (.known (bootByte i.cfg p)) ∧ v.cached p.1 = some (bootByte i.cfg p) := by
  by_cases hreg : p.1 = i.cfg.regConfig
  · obtain ⟨hrole, rfl⟩ | ⟨hrole, c, b, hcached, hlisten⟩ := h
    · rw [bootByte, if_neg fun e => by rw [hrole] at e; exact nomatch e.1]
      exact ⟨hd, hc⟩
    · rw [bootByte, if_pos ⟨hrole, hreg⟩]
      rw [hreg] at ht hl hc ⊢
      obtain rfl : p.2 = c := Option.some.inj (hc.symm.trans hcached)
      obtain ⟨rfl, hcell⟩ := hlisten.taken ht hl
      exact ⟨hcell, (hlisten.cached _).trans (if_pos ⟨rfl, rfl⟩)⟩
  · rw [bootByte, if_neg fun e => hreg e.2]
    obtain ⟨hca, hcell⟩ := h.others hreg
    exact ⟨(hcell 0).trans hd, hca.trans hc⟩

/-- One that drops its writes keeps its byte. -/
theorem RoleServed.dropped (h : RoleServed i v) {a b : Byte} (hp : i.cfg.present = true) (hs : a ∈ i.cfg.stuck)
    (hd : i.dev.cell i.cfg a 0 = some (.known b)) (hc : i.cached a = some b) :
    v.dev.cell i.cfg a 0 = some (.known b) ∧ v.cached a = some b := by
  by_cases hreg : a = i.cfg.regConfig
  · subst hreg
    obtain ⟨-, rfl⟩ | ⟨-, c, x, -, hl⟩ := h
    · exact ⟨hd, hc⟩
    · obtain ⟨rfl, hcell⟩ := hl.dropped hp hs b hd
      exact ⟨hcell, by rw [hl.cached, hc, ite_self]⟩
  · obtain ⟨hca, hcell⟩ := h.others hreg
    exact ⟨(hcell 0).trans hd, hca.trans hc⟩

/-- The tokens after those of Init, and the cached byte that tells what StartListening wrote. -/
theorem RoleServed.tokens (h : RoleServed i v) (hrole : i.cfg.role = .parent) (hce : i.ce = .low) :
    ∃ c, v.cached i.cfg.regConfig = some c ∧ v.trace.map TraceEvent.outline =
      (if v.ce = .high then [.ceHigh] else []) ++ (listenTokens i.cfg (listenByte i.cfg c)).reverse ++
        i.trace.map TraceEvent.outline := by
  obtain ⟨hchild, -⟩ | ⟨-, c, b, hc, hl⟩ := h
  · rw [hrole] at hchild; cases hchild
  · have hca := hl.cached i.cfg.regConfig
    have htr := hl.trace
    by_cases hb : b = listenByte i.cfg c
    · refine ⟨b, hca.trans (if_pos ⟨hb, rfl⟩), ?_⟩
      rw [if_pos hb] at htr
      rw [htr, if_pos (hl.ce.trans (if_pos hb)), hb, listenByte_listenByte]
    · refine ⟨c, (hca.trans (if_neg fun e => hb e.1)).trans hc, ?_⟩
      have hlow : v.ce ≠ .high := by rw [hl.ce, if_neg hb, hce]; nofun
      rw [if_neg hb] at htr
      rw [htr, if_neg hlow]

/-- The line is raised on a Parent that has read back the byte it wrote. -/
theorem RoleServed.ce_alone (h : RoleServed i v) (hm : i.cfg.mapped = true) (hce : i.ce = .low) (hp : i.cfg.present = false)
    (hc : i.cached i.cfg.regConfig = some i.cfg.absentByte) :
    v.ce = .high ↔ i.cfg.role = .parent ∧ i.cfg.absentByte.getLsbD i.cfg.bitPrimRx = true := by
  obtain ⟨hrole, rfl⟩ | ⟨hrole, c, b, hcached, hl⟩ := h
  · rw [hce, hrole]; simp
  · obtain rfl : i.cfg.absentByte = c := Option.some.inj (hc.symm.trans hcached)
    have hbit := eq_withBit_true (v := i.cfg.absentByte) (config_layout hm).1
    rw [hl.ce, hl.alone hp, hce, ← hbit]
    simp [hrole]

/-- A Parent whose device takes the mode bit listens. -/
theorem RoleServed.raised (h : RoleServed i v) (hrole : i.cfg.role = .parent) {x : Byte} (ht : Takes i i.cfg.regConfig)
    (hl : legalValue i.cfg i.cfg.regConfig x = true) (hc : i.cached i.cfg.regConfig = some x) : v.ce = .high := by
  obtain ⟨hchild, -⟩ | ⟨-, c, b, hcached, hlisten⟩ := h
  · rw [hrole] at hchild; cases hchild
  · obtain rfl : x = c := Option.some.inj (hc.symm.trans hcached)
    rw [hlisten.ce, if_pos (hlisten.taken ht hl).1]

end

/-! Boot. -/

/-- Boot was requested in `s` and returned in `t` with the result code `rc`, whatever the device answered: `i` is the state Init
left, `v` the one in which the tick source was armed. -/
structure Booted (s i v t : State) (rc : Byte) : Prop where
  returns : Returns .boot s (Reply.byte rc) t
  armed : t.tickArmed = true
  initialised : t.initialised = true
  cfg : i.cfg = s.cfg
  csn : i.csn = .deasserted
  ce : i.ce = .low
  trace : i.trace.map TraceEvent.outline = (initTokens s.cfg).reverse ++ .boardInit :: s.trace.map TraceEvent.outline
  stored : Stored (boarded s) (initWrites s.cfg) i
  recorded : Recorded (boarded s) (initValues s.cfg) rc i
  role : RoleServed i v
  left : LeftAlone v t

theorem boot_booted {s : State} (h : Ready s) : ∃ i v t rc, Booted s i v t rc := by
  obtain ⟨hs, hx, hm⟩ := h
  obtain ⟨u, rc, hr, hcfg, hseq, hleft, hinit, hcsn, hce, htr, hst, hrec⟩ :=
    initialise_ok (s := boarded (begun (.op .boot) s)) hm hx
  have hst : Stored (boarded s) (initWrites s.cfg) (inited rc u) := ⟨hst.written, hst.others⟩
  have hrec : Recorded (boarded s) (initValues s.cfg) rc (inited rc u) := ⟨hrec.tried, hrec.clear, hrec.baseline⟩
  have hcfg : (inited rc u).cfg = s.cfg := hcfg
  have hin : SameCallers (begun (.op .boot) s).seq (inited rc u).seq := by
    show SameCallers _ (mapTop _ u.seq)
    rw [hseq]
    exact (begun_callers _ _).advance.advance.mapTop _
  obtain ⟨x, hx', -⟩ := hrec.filled (named_le hm regConfig_named)
  obtain ⟨v, hrest, hcallers, hi, hrole⟩ := bootRest_ok (i := inited rc u) (by rw [hcfg]; exact hm) hleft hinit
    (by rw [hcfg]; exact hx' ▸ Option.some_ne_none x) rc
  rw [hcfg] at hrest
  have hexec := exec_served (f := Reply.byte) rfl hs ((bootBody_run hr).trans hrest) (hcallers _ hin).advance
  exact ⟨inited rc u, v, _, rc, ⟨hexec, hs, rfl⟩, rfl, hi, hcfg, hcsn, hce, htr, hst, hrec, hrole, ⟨rfl, rfl, rfl, rfl, rfl⟩⟩

section

variable {s i v t : State} {rc : Byte} (h : Booted s i v t rc)
include h

theorem Booted.cached (a : Byte) : t.cached a = v.cached a := State.cached_congr h.left.cache a

theorem Booted.filled {a : Byte} (ha : a ≤ Config.regHi) : t.cached a ≠ none := by
  obtain ⟨x, hx, -⟩ := h.recorded.filled ha
  rw [h.cached]
  exact h.role.filled (hx ▸ Option.some_ne_none x)

/-- After Init only the configuration register changes. -/
theorem Booted.afterInit {a : Byte} (ha : a ≠ s.cfg.regConfig) (j : Nat) : t.dev.cell s.cfg a j = i.dev.cell s.cfg a j := by
  rw [← h.cfg] at ha ⊢
  rw [h.left.dev, (h.role.others ha).2]

theorem Booted.other {a : Byte} (ha : a ∉ configuredRegisters s.cfg) (j : Nat) :
    t.dev.cell s.cfg a j = s.dev.cell s.cfg a j := by
  have hreg : a ≠ s.cfg.regConfig := by rintro rfl; exact ha (by simp [configuredRegisters])
  rw [h.afterInit hreg]
  exact (h.stored.others a (mt mem_initWrites.mp ha) j).trans (Device.cell_inFrame ..)

theorem Booted.child (hrole : s.cfg.role = .child) : v = i := by
  obtain ⟨-, hv⟩ | ⟨hparent, -⟩ := h.role
  · exact hv
  · rw [h.cfg, hrole] at hparent; cases hparent

theorem Booted.parentTokens (hrole : s.cfg.role = .parent) : ∃ c, t.cached s.cfg.regConfig = some c ∧
    t.trace.map TraceEvent.outline =
      (if t.ce = .high then [.ceHigh] else []) ++ (listenTokens s.cfg (listenByte s.cfg c)).reverse ++
        ((initTokens s.cfg).reverse ++ .boardInit :: s.trace.map TraceEvent.outline) := by
  obtain ⟨c, hc, htr⟩ := h.role.tokens ((congrArg Cfg.role h.cfg).trans hrole) h.ce
  rw [h.cfg] at hc htr
  exact ⟨c, (h.cached _).trans hc, by rw [h.left.trace, h.left.ce, htr, h.trace]⟩

/-- Without a device every entry of the cache is `ABSENT_BYTE` (45_device_interpreter.md R276). -/
theorem Booted.alone (hp : s.cfg.present = false) {a : Byte} (ha : a ≤ Config.regHi) :
    i.cached a = some s.cfg.absentByte ∧ t.cached a = some s.cfg.absentByte := by
  obtain ⟨x, hx, habs⟩ := h.recorded.filled ha
  obtain rfl : x = s.cfg.absentByte := habs hp
  rw [h.cached]
  refine ⟨hx, ?_⟩
  rw [← h.cfg] at hp hx ⊢
  exact h.role.alone hp hx

section

variable {k : Nat} {p : Byte × Byte} (hp : s.cfg.present = true) (hl : s.cfg.legal = true) (hk : (initValues s.cfg)[k]? = some p)
include hp hl hk

/-- A validated register that takes its writes. -/
theorem Booted.taken (hs : p.1 ∉ s.cfg.stuck) : rc.getLsbD k = false ∧
    t.dev.cell s.cfg p.1 0 = some (.known (bootByte s.cfg p)) ∧ t.cached p.1 = some (bootByte s.cfg p) := by
  obtain ⟨hbit, hd, hc⟩ := init_taken (s := boarded s) hp hl hk h.stored h.recorded hs
  obtain ⟨hlegal, -⟩ := initValues_legal hl p (List.mem_of_getElem? hk)
  refine ⟨hbit, ?_⟩
  rw [h.left.dev, h.cached, ← h.cfg]
  have ht : Takes i p.1 := by rw [Takes, h.cfg]; exact ⟨hp, hs⟩
  exact h.role.taken ht (by rw [h.cfg]; exact hlegal) (by rw [h.cfg]; exact hd) hc

/-- One that drops them. -/
theorem Booted.dropped (hs : p.1 ∈ s.cfg.stuck) {b : Byte} (hb : s.dev.cell s.cfg p.1 0 = some (.known b)) :
    t.dev.cell s.cfg p.1 0 = some (.known b) ∧ t.cached p.1 = some b ∧ rc.getLsbD k = decide (b ≠ p.2) := by
  obtain ⟨hbit, hd, hc⟩ := init_dropped (s := boarded s) hp hl hk h.stored h.recorded hs ((Device.cell_inFrame ..).trans hb)
  have hd : i.dev.cell s.cfg p.1 0 = some (.known b) := hd
  rw [h.left.dev, h.cached]
  rw [← h.cfg] at hp hs hd ⊢
  obtain ⟨hcell, hcached⟩ := h.role.dropped hp hs hd hc
  exact ⟨hcell, hcached, hbit⟩

end

/-- The result code without a device. -/
theorem Booted.codeAlone (hp : s.cfg.present = false) {k : Nat} (hk : k < (initValues s.cfg).length) :
    rc.getLsbD k = decide ((initValues s.cfg)[k].2 ≠ s.cfg.absentByte) := by
  obtain ⟨x, -, hbit, -, -, hx⟩ := h.recorded.tried k _ (List.getElem?_eq_getElem hk)
  rw [hbit, show x = s.cfg.absentByte from hx.1 hp]
  exact decide_eq_decide.mpr ne_comm

/-- The line without a device. -/
theorem Booted.lineAlone (hm : s.cfg.mapped = true) (hp : s.cfg.present = false) :
    t.ce = .high ↔ s.cfg.role = .parent ∧ s.cfg.absentByte.getLsbD s.cfg.bitPrimRx = true := by
  obtain ⟨hc, -⟩ := h.alone hp (named_le hm regConfig_named)
  rw [h.left.ce]
  rw [← h.cfg] at hm hp hc ⊢
  exact h.role.ce_alone hm h.ce hp hc

/-- With no register that drops its writes every bit of the result code is 0. -/
theorem Booted.codeZero (hp : s.cfg.present = true) (hl : s.cfg.legal = true) (hs : s.cfg.stuck = []) : rc = 0 := by
  refine BitVec.eq_of_getLsbD_eq fun k _ => ?_
  rw [show (0 : Byte).getLsbD k = false from BitVec.getLsbD_zero]
  rcases Nat.lt_or_ge k (initValues s.cfg).length with hk | hk
  · exact (h.taken hp hl (List.getElem?_eq_getElem hk) (by simp [hs])).1
  · exact h.recorded.clear k hk

/-- The transmit address is written (41_transceiver_config.md R161) and not touched again. -/
theorem Booted.txAddr (hm : s.cfg.mapped = true) (hp : s.cfg.present = true) (hs : s.cfg.regTxAddr ∉ s.cfg.stuck) {j : Nat}
    (hj : j < 5) : t.dev.cell s.cfg s.cfg.regTxAddr j = (s.cfg.pipeAddr.toList[j]?).map RegCell.known := by
  have five : isFiveByte s.cfg s.cfg.regTxAddr = true := by simp [isFiveByte]
  have written : i.dev.cell s.cfg s.cfg.regTxAddr j = _ :=
    h.stored.written hp (s.cfg.regTxAddr, s.cfg.pipeAddr.toList) (by simp [initWrites]) j
  rw [h.afterInit (txAddr_ne_config hm), written]
  refine (storeAll_five hm five hs s.cfg.pipeAddr.toList 0 _ (by simp) j).trans ?_
  rw [if_pos (by simpa using hj), Nat.sub_zero]

/-- Where the configuration register takes its writes the Parent's line is high in the end. -/
theorem Booted.line (hp : s.cfg.present = true) (hl : s.cfg.legal = true) (hs : s.cfg.regConfig ∉ s.cfg.stuck) :
    t.ce = match s.cfg.role with
      | .child => .low
      | .parent => .high := by
  rw [h.left.ce]
  cases hrole : s.cfg.role with
  | child => rw [h.child hrole]; exact h.ce
  | parent =>
    have hk := initValues_config (legal_mapped hl)
    obtain ⟨-, -, hc⟩ := init_taken (s := boarded s) hp hl hk h.stored h.recorded hs
    obtain ⟨hlegal, -⟩ := initValues_legal hl _ (List.mem_of_getElem? hk)
    have hc : i.cached s.cfg.regConfig = some s.cfg.configInit := hc
    have ht : Takes i i.cfg.regConfig := by rw [Takes, h.cfg]; exact ⟨hp, hs⟩
    refine h.role.raised ((congrArg Cfg.role h.cfg).trans hrole) ht (x := s.cfg.configInit) ?_ ?_
    · rw [h.cfg]; exact hlegal
    · rw [h.cfg]; exact hc

/-- There the Child ends in Standby, the Parent in Listening (43_mode_controller.md R214, 10_state.md R39). -/
theorem Booted.mode (hm : s.cfg.mapped = true) (hp : s.cfg.present = true) (hl : s.cfg.legal = true)
    (hs : s.cfg.regConfig ∉ s.cfg.stuck) :
    engineMode s.cfg (t.cached s.cfg.regConfig) t.ce = match s.cfg.role with
      | .child => .standby
      | .parent => .listening := by
  obtain ⟨-, -, hc⟩ := h.taken hp hl (initValues_config hm) hs
  have hup := bootByte_pwrUp hm
  rw [hc, h.line hp hl hs]
  cases hrole : s.cfg.role with
  | child => exact engineMode_standby hup
  | parent =>
    have hrx : (bootByte s.cfg (s.cfg.regConfig, s.cfg.configInit)).getLsbD s.cfg.bitPrimRx = true := by
      rw [bootByte, if_pos ⟨hrole, rfl⟩]; exact listenByte_primRx hm _
    exact engineMode_listening hup hrx

end

end Sys2Proof.Machine

namespace Sys2Proof

open Sys2Proof.Machine

/-- Settles O41: Init leaves what it leaves on any node, and StartListening, on the Parent, adds its frames and the mode bit. -/
theorem bootInitialisesAndArms : Obligations.BootInitialisesAndArms := by
  intro s h
  obtain ⟨i, v, t, rc, hb⟩ := boot_booted h
  refine ⟨t, rc, hb.returns, hb.armed, hb.initialised, hb.left.csn.trans (hb.role.csn hb.csn),
    Nat.lt_pow_two_of_testBit _ fun k hk => hb.recorded.clear k hk, fun a ha => hb.filled ha, fun a ha => hb.other ha,
    fun hrole => ?_, hb.parentTokens, fun hp => ⟨fun a ha => (hb.alone hp ha).2, fun k hk => ?_, ?_⟩,
    fun hp hl => ⟨fun k hk => ?_, fun hs j hj => ?_, fun hs => ?_, fun hs => ?_⟩⟩
  · obtain rfl := hb.child hrole
    exact ⟨hb.left.ce.trans hb.ce, hb.left.trace ▸ hb.trace⟩
  · exact hb.codeAlone hp hk
  · exact hb.lineAlone h.2.2 hp
  · have hk' : k < (initValues s.cfg).length := hk
    rw [bootValues_getElem hk hk']
    have hget := List.getElem?_eq_getElem hk'
    refine ⟨hb.taken hp hl hget, fun hs b hcell => ?_⟩
    obtain ⟨hd, hc, hbit⟩ := hb.dropped hp hl hget hs hcell
    exact ⟨hd, hc, fun _ => hbit⟩
  · exact hb.txAddr h.2.2 hp hs hj
  · exact hb.codeZero hp hl hs
  · refine ⟨hb.mode h.2.2 hp hl hs, fun hrole => ?_⟩
    obtain ⟨-, hcell, hc⟩ := hb.taken hp hl (initValues_config h.2.2) hs
    have hce := hb.line hp hl hs
    rw [hrole] at hce
    rw [bootByte_parent hrole] at hcell hc
    exact ⟨hce, hc, hcell⟩

end Sys2Proof
end

section
/-! What is left of the schedule and of the request port while an operation is under way (00_scope.md R12, 30_encoding.md R103):
every gap takes one list of the schedule, and nothing is put on the port. -/

namespace Sys2Proof.Machine

theorem applyEvent_env (e : EnvEvent) (s : State) : (applyEvent e s).env = s.env := by
  cases e with
  | transmitComplete =>
    simp only [applyEvent, transmitComplete]
    split
    · cases s.dev.burst <;> rfl
    · rfl
  | airAdd f => simp only [applyEvent]; split <;> rfl
  | airOffer i aw => simp only [applyEvent, airOffer, offerFrame]; split <;> rfl
  | airDrop i => rfl
  | tick => simp only [applyEvent, tick]; split <;> rfl
  | present b => simp only [applyEvent, presentInbound]; split_ifs <;> rfl

theorem applyEvents_env (l : List EnvEvent) (s : State) : (applyEvents l s).env = s.env := by
  induction l generalizing s with
  | nil => rfl
  | cons e l ih => exact (ih _).trans (applyEvent_env e s)

/-- A gap takes the first list of the schedule. -/
@[simp] theorem gap_env (s : State) : (gap s).env = s.env.tail := by
  cases he : s.env with
  | nil => exact (gap_idle he).1
  | cons l rest => simp only [gap, he, gapOf, applyEvents_env, List.tail_cons]

/-- Nothing is put on the port of a node that is not idle. -/
theorem applyEvent_inbox (e : EnvEvent) {s : State} (h : s.seq ≠ []) : (applyEvent e s).inbox = s.inbox := by
  cases e with
  | transmitComplete =>
    simp only [applyEvent, transmitComplete]
    split
    · cases s.dev.burst <;> rfl
    · rfl
  | airAdd f => simp only [applyEvent]; split <;> rfl
  | airOffer i aw => simp only [applyEvent, airOffer, offerFrame]; split <;> rfl
  | airDrop i => rfl
  | tick => simp only [applyEvent, tick, h, false_and, and_false, if_false]
  | present b => simp only [applyEvent, presentInbound, if_pos h]; rfl

theorem gap_inbox {s : State} (h : s.seq ≠ []) : (gap s).inbox = s.inbox :=
  (gap_keeps (I := fun t => t.seq ≠ [] ∧ t.inbox = s.inbox) (fun _ _ ht => ht)
    (fun e _ ht => ⟨by rw [(applyEvent_untouched e _).seq]; exact ht.1, (applyEvent_inbox e ht.1).trans ht.2⟩)
    ⟨h, rfl⟩).2

/-- More than `k` operations are under way, nothing stands on the request port, and at most `n` gaps are scheduled. -/
def Occupied (n k : Nat) (s : State) : Prop := s.inbox = none ∧ s.env.length ≤ n ∧ k < s.seq.length

section

variable {n k : Nat} {α : Type} {c : Cfg}

theorem Occupied.gap {s : State} (h : Occupied n k s) : Occupied n k (gap s) := by
  obtain ⟨hi, he, hs⟩ := h
  refine ⟨(gap_inbox (List.ne_nil_of_length_pos (by omega))).trans hi, ?_, by rwa [gap_seq]⟩
  rw [gap_env, List.length_tail]
  omega

@[simp] theorem advance_length (q : List Position) : (advance q).length = q.length := by cases q <;> rfl

@[simp] theorem mapTop_length (f : Position → Position) (q : List Position) : (mapTop f q).length = q.length := by
  cases q <;> rfl

/-- A change that keeps the port, the schedule and the number of operations under way. -/
theorem Occupied.of_eq {s t : State} (h : Occupied n k s) (hi : t.inbox = s.inbox) (he : t.env = s.env)
    (hs : t.seq.length = s.seq.length) : Occupied n k t := ⟨hi.trans h.1, by rw [he]; exact h.2.1, by rw [hs]; exact h.2.2⟩

/-- A change of the state that keeps the port, the schedule and the sequencer. -/
def KeepsPorts (f : State → State) : Prop := ∀ s, (f s).inbox = s.inbox ∧ (f s).env = s.env ∧ (f s).seq = s.seq

theorem KeepsPorts.occupied {f : State → State} (hf : KeepsPorts f) {s : State} (h : Occupied n k s) : Occupied n k (f s) :=
  h.of_eq (hf s).1 (hf s).2.1 (congrArg List.length (hf s).2.2)

abbrev StaysOccupied (m : Eng α) : Prop := ∀ n k, Keep (Occupied n k) (fun _ => Occupied n k) m

theorem occupied_protocol (n k : Nat) (op : Byte) (limit : Nat) :
    Protocol op limit (Occupied n k) (Occupied n k) (fun _ => Occupied n k) fun _ => Occupied n k where
  opened _ h := h.gap.of_eq rfl rfl (advance_length _)
  opcode _ _ h := h.gap.of_eq rfl rfl (advance_length _)
  opcodeStuck _ h _ := h.gap
  data _ _ _ _ _ h := h.gap.of_eq rfl rfl (advance_length _)
  dataStuck _ _ _ _ h _ := h.gap
  noted _ _ _ h := h.of_eq rfl rfl (mapTop_length _ _)
  closed _ _ _ h := h.gap.of_eq rfl rfl (advance_length _)

theorem StaysOccupied.call {m : Eng α} (h : StaysOccupied m) (t : Task) : StaysOccupied (call t m) := fun n k =>
  Spec.mono (Spec.call (P := Occupied n k) (h n (k + 1)) (fun _ hs => ⟨hs.1, hs.2.1, Nat.succ_lt_succ hs.2.2⟩)
      fun a s (hs : Occupied n (k + 1) s) => (⟨hs.1, hs.2.1, by
        show k < (popped s.seq).length
        obtain ⟨p, q, hq⟩ := List.exists_cons_of_length_pos (l := s.seq) (by have := hs.2.2; omega)
        have := hs.2.2
        rw [hq] at this ⊢
        simpa [popped] using this⟩ : Occupied n k s.leaving))
    (fun _ hs => hs) (fun _ _ hs => hs) fun _ _ hs => ⟨hs.1, hs.2.1, Nat.lt_of_succ_lt hs.2.2⟩

theorem StaysOccupied.bind {β : Type} {m : Eng α} {f : α → Eng β} (h : StaysOccupied m) (hf : ∀ a, StaysOccupied (f a)) :
    StaysOccupied (m >>= f) := fun n k => Keep.bind (h n k) fun a => hf a n k

theorem StaysOccupied.pure (a : α) : StaysOccupied (Pure.pure a : Eng α) := fun _ _ => Keep.pure a

theorem StaysOccupied.ite {p : Prop} [Decidable p] {m m' : Eng α} (h : StaysOccupied m) (h' : StaysOccupied m') :
    StaysOccupied (if p then m else m') := fun n k => Keep.ite (fun _ => h n k) fun _ => h' n k

theorem internal_occupied {f : State → State} (hf : KeepsPorts f) : StaysOccupied (internal f) := fun _ _ s h =>
  (hf.occupied h).of_eq (t := (f s).advanced) rfl rfl (advance_length _)

theorem action_occupied (e : TraceEvent) {f : State → State} (hf : KeepsPorts f) : StaysOccupied (action e f) := fun _ _ s h =>
  (hf.occupied h.gap).of_eq (t := (f (gap s)).stamped e) rfl rfl (advance_length _)

theorem writeRegister_occupied (a d : Byte) : StaysOccupied (writeRegister a d) :=
  StaysOccupied.call (fun n k => writeRegisterBody_keeps d (occupied_protocol n k _ 1) (Nat.le_refl 1)) _

theorem readRegister_occupied (a : Byte) : StaysOccupied (readRegister a) :=
  StaysOccupied.call (fun n k => readRegisterBody_keeps (occupied_protocol n k _ 1) (Nat.le_refl 1)) _

theorem writeCommand_occupied (b : Byte) : StaysOccupied (writeCommand b) :=
  StaysOccupied.call (fun n k => writeCommandBody_keeps (occupied_protocol n k _ 0)) _

theorem writeFifo_occupied (c : Cfg) (n : Byte) (buf : List Byte) : StaysOccupied (writeFifo c n buf) :=
  StaysOccupied.call (fun m k => writeFifoBody_keeps buf (occupied_protocol m k _ n.toNat) (Nat.le_refl _)) _

theorem clearFlags_occupied (c : Cfg) (m : Byte) : StaysOccupied (clearFlags c m) :=
  StaysOccupied.call (writeRegister_occupied _ _) _

theorem writeValidated_occupied (a d : Byte) : StaysOccupied (writeValidated a d) :=
  StaysOccupied.call ((writeRegister_occupied a d).bind fun _ => (readRegister_occupied a).bind fun _ =>
    StaysOccupied.ite ((internal_occupied (f := fun s => s.setCached a d) fun _ => ⟨rfl, rfl, rfl⟩).bind fun _ => .pure _)
      (.pure _)) _

theorem setModeBit_occupied (c : Cfg) (m : Byte) : StaysOccupied (setModeBit c m) :=
  StaysOccupied.call (StaysOccupied.bind (fun _ _ => Keep.get) fun _ => writeValidated_occupied _ _) _

theorem start_occupied (c : Cfg) (n : Byte) (buf : List Byte) : StaysOccupied (start c n buf) :=
  StaysOccupied.call ((clearFlags_occupied c _).bind fun _ => (setModeBit_occupied c _).bind fun _ =>
    StaysOccupied.ite (.pure _) (StaysOccupied.bind ((writeCommand_occupied _).call _) fun _ =>
      (writeFifo_occupied c n buf).bind fun _ => .pure _)) _

theorem initiate_occupied : StaysOccupied initiate :=
  StaysOccupied.call ((action_occupied .ceHigh fun s => ⟨s.raised_inbox, s.raised_env, s.raised_seq⟩).bind fun _ =>
    (action_occupied (f := id) (.wait _) fun _ => ⟨rfl, rfl, rfl⟩).bind fun _ =>
      action_occupied (f := State.lowered) .ceLow fun _ => ⟨rfl, rfl, rfl⟩) _

end

end Sys2Proof.Machine
end

section
/-! The poll of End under the fairness premises (45_device_interpreter.md R275): a burst in progress, or over and not yet seen,
is seen by the first round that starts with the schedule used up, and every round before it uses the schedule. -/

namespace Sys2Proof.Machine

/-! A burst on its way. -/

/-- A burst is in progress, or over with "data sent" still set. -/
def Device.Underway (d : Device) : Prop := d.burst ≠ none ∨ d.dataSent = true

theorem Device.Underway.inFrame {d : Device} (h : d.Underway) (f : DevFrame) : (d.inFrame f).Underway := h

theorem gap_underway {s : State} (h : s.dev.Underway) : (gap s).dev.Underway :=
  gap_keeps_device (fun _ _ _ => .inr rfl) (fun c fresh ce f aw d hd => by
    rcases receive_cases c fresh ce f aw d with he | ⟨-, -, -, he⟩ <;> rw [he] <;> exact hd) h

/-- Once the schedule is used up, the next gap ends the burst. -/
theorem gap_sends {s : State} (h : s.dev.Underway) (he : s.env = []) (hp : s.cfg.present = true)
    (hc : s.cfg.txCompletes = true) : (gap s).dev.dataSent = true := by
  cases hb : s.dev.burst with
  | none => exact (gap_flagsStand (.refl _)).2.1 (h.resolve_left fun hn => hn hb)
  | some b => rw [gap_burst he hp hb, if_pos hc]; rfl

/-! The frame of a poll. -/

section

variable {s : State}

/-- What no gap undoes, and the frame state does not matter to, the frame of a no-op command does not undo. -/
theorem nopFrame_keeps {P : Device → Prop} (hg : ∀ u : State, P u.dev → P (gap u).dev) (hf : ∀ f d, P d → P (d.inFrame f))
    (hm : s.cfg.mapped = true) (hp : s.cfg.present = true) (h : P s.dev) : P (framedAll true s.cfg.opcNop [] s).dev := by
  rw [closed_command hm (.inr (.inr rfl)) hp]
  refine hf _ _ (hg _ ?_)
  rw [sent_command hm (.inr (.inr rfl)) hp, command_nop hm]
  refine hf _ _ (hg _ ?_)
  rw [opened_dev hp]
  exact hf _ _ (hg _ h)

/-- It takes the lists of three gaps. -/
theorem nopFrame_env (op : Byte) (s : State) : (framedAll true op [] s).env = s.env.tail.tail.tail := by
  show (gap (sent true op (opened s))).env = _
  rw [gap_env]
  show (gap (opened s)).env.tail = _
  rw [gap_env]
  show (gap s).env.tail.tail = _
  rw [gap_env]

theorem advance_ne_nil {q : List Position} (h : q ≠ []) : advance q ≠ [] := by
  cases q with
  | nil => exact absurd rfl h
  | cons p q => exact List.cons_ne_nil _ _

theorem nopFrame_inbox (op : Byte) (h : s.seq ≠ []) : (framedAll true op [] s).inbox = s.inbox := by
  have h1 : (opened s).seq ≠ [] := by rw [opened_seq]; exact advance_ne_nil h
  have h2 : (sent true op (opened s)).seq ≠ [] := by rw [sent_seq]; exact advance_ne_nil h1
  calc (gap (sent true op (opened s))).inbox
      _ = (gap (opened s)).inbox := gap_inbox h2
      _ = (gap s).inbox := gap_inbox h1
      _ = s.inbox := gap_inbox h

/-- The byte a present device answers to an opcode is its status byte of that moment (45_device_interpreter.md R252). -/
theorem heard_opcode (op : Byte) (hp : s.cfg.present = true) :
    heard op (opened s) = (gap (opened s)).dev.statusByte s.cfg := by
  rw [heard_present ((opened_cfg s).symm ▸ hp), Device.exchange_open _ _ _ _ ((gap_frame _).trans (opened_frame hp)), opened_cfg]

/-- A poll with the schedule used up shows "data sent". -/
theorem poll_sees (op : Byte) (h : s.dev.Underway) (hm : s.cfg.mapped = true) (hp : s.cfg.present = true)
    (hc : s.cfg.txCompletes = true) (he : s.env = []) : dataSentBit s.cfg (heard op (opened s)) = true := by
  rw [heard_opcode op hp]
  refine (statusByte_dataSent hm _).trans ((gap_flagsStand (.refl _)).2.1 ?_)
  rw [opened_dev hp]
  exact gap_sends h he hp hc

end

/-! A round. -/

/-- End polls, `callers` waiting for it, and will see "data sent" in the end. -/
structure Awaits (callers : List Position) (s : State) : Prop where
  polls : ∃ p, s.seq = p :: callers ∧ p.polls = true
  complete : s.port.left = none
  mapped : s.cfg.mapped = true
  healthy : s.dev.fault = none
  free : s.inbox = none
  takes : Takes s s.cfg.regStatus
  fair : s.cfg.txCompletes = true
  underway : s.dev.Underway

/-- What a poll leaves for the rounds after it. -/
structure Watched (s : State) (st : Byte) (u : State) : Prop extends Polled s st u where
  healthy : u.dev.fault = s.dev.fault
  free : u.inbox = s.inbox
  env : u.env = s.env.tail.tail.tail
  underway : u.dev.Underway
  seen : s.env = [] → dataSentBit s.cfg st = true

/-- What a computation keeps holds where it waits. -/
theorem Keep.waited {α : Type} {D : State → Prop} {E : Wait → State → Prop} {m : Eng α} {w : Wait} {s t : State}
    (h : Keep D E m) (hs : D s) (hr : m.run s = .error w t) : E w t := by
  have := h s hs
  rwa [hr] at this

section

variable {cs : List Position} {s : State}

/-- The poll has entered its command. -/
abbrev nopEntered (s : State) : State := s.entering (.op (.writeCommand s.cfg.opcNop))

/-- A round of End, with what `endBody_round` leaves open. -/
theorem Awaits.polled (h : Awaits cs s) : ∃ st u, Watched s st u ∧ (endBody s.cfg).run s = if dataSentBit s.cfg st = true
    then (clearFlags s.cfg s.cfg.flagTxDs >>= fun _ => pure st).run u
    else .error .poll (u.atAction 0) := by
  obtain ⟨p, hs, -⟩ := h.polls
  have hp := h.takes.1
  obtain ⟨u, st, hr, hc, hca, htr, -, habs, hq⟩ := writeCommand_ok s.cfg.opcNop h.mapped (.inr (.inr rfl)) h.complete
  have hrun : (writeCommand s.cfg.opcNop).run s = .ok (heard s.cfg.opcNop (opened (nopEntered s)))
      (framedAll true s.cfg.opcNop [] (nopEntered s)).leaving := call_ok (writeCommandBody_run _ (s := nopEntered s) h.complete)
  obtain ⟨rfl, rfl⟩ := EStateM.Result.ok.inj (hr.symm.trans hrun)
  rw [command_nop h.mapped] at hq
  refine ⟨_, counted (fun l => { l with status := heard s.cfg.opcNop (opened (nopEntered s)) }) _,
    { toKept := hc.toKept.trans (Kept.ofSeq _ _)
      csn := hc.csn
      callers := fun q h => (hc.work.callers q h).mapTop _
      cache := hca
      trace := htr
      seq := fun p cs hs => by
        show mapTop _ (State.leaving _).seq = _
        rw [hc.seq, hs]; rfl
      alone := habs
      device := hq
      healthy := nopFrame_keeps (s := nopEntered s) (P := fun d => d.fault = s.dev.fault) (fun u hu => (gap_fault u).trans hu)
        (fun _ _ => id) h.mapped hp rfl
      free := nopFrame_inbox (s := nopEntered s) _ (List.cons_ne_nil _ _)
      env := nopFrame_env _ (nopEntered s)
      underway := nopFrame_keeps (s := nopEntered s) (fun _ => gap_underway) (fun f _ hd => hd.inFrame f) h.mapped hp h.underway
      seen := poll_sees (s := nopEntered s) _ h.underway h.mapped hp h.fair }, ?_⟩
  simp only [endBody, EStateM.run_bind, hr, noteLocals_run]
  split <;> rfl

/-- A round of End returns "data sent", or comes back to the poll with less of the schedule left. -/
theorem Awaits.round (h : Awaits cs s) :
    (∃ st t, (endBody s.cfg).run s = .ok st t ∧ dataSentBit s.cfg st = true ∧ Work s t ∧ SameHost s t) ∨
      ∃ t, (endBody s.cfg).run s = .error .poll t ∧ Awaits cs t ∧ SameHost s t ∧ t.env.length < s.env.length := by
  have host : Keep (SameHost s) (fun _ => SameHost s) (endBody s.cfg) :=
    end_keeps (sameHost_blind s) (sameHost_allKept (by simp [Effect.OffHost]) s)
  obtain ⟨st, u, hw, hround⟩ := h.polled
  by_cases hbit : dataSentBit s.cfg st = true
  · rw [if_pos hbit] at hround
    obtain ⟨t, hr, hwork, -⟩ := hw.clears h.mapped h.complete
    have hrun := hround.trans hr
    exact .inl ⟨st, t, hrun, hbit, hwork, host.returned (.refl s) hrun⟩
  · rw [if_neg hbit] at hround
    obtain ⟨p, hs, hp⟩ := h.polls
    obtain ⟨ht, -, hl⟩ := of_decide_eq_true hp
    have some_left : s.env ≠ [] := fun he => hbit (hw.seen he)
    refine .inr ⟨_, hround, ⟨⟨{ p with k := 0, loc := { p.loc with status := st } }, ?_, decide_eq_true ⟨ht, rfl, hl⟩⟩,
      hw.complete h.complete, hw.cfg ▸ h.mapped, hw.healthy.trans h.healthy, hw.free.trans h.free, ?_, hw.cfg ▸ h.fair,
      hw.underway⟩, host.waited (.refl s) hround, ?_⟩
    · show mapTop _ u.seq = _
      rw [hw.seq p cs hs]; rfl
    · show u.cfg.present = true ∧ u.cfg.regStatus ∉ u.cfg.stuck
      rw [hw.cfg]; exact h.takes
    · show u.env.length < _
      rw [hw.env, List.length_tail, List.length_tail, List.length_tail]
      have := List.length_pos_of_ne_nil some_left
      omega

/-- A step of such a node is a round (42_packet_io.md R193). -/
theorem Awaits.step_eq (h : Awaits cs s) : step s = .next (pollOver cs ((endBody s.cfg).run s)) := by
  obtain ⟨p, hs, hp⟩ := h.polls
  rw [step, h.healthy, h.free, serveInbox, resume, hs, resumeAt, if_pos hp]

/-- End returns into its callers after at most one step more than the schedule has gaps. -/
theorem Awaits.returns (h : Awaits cs s) : ∃ n ≤ s.env.length + 1, ∃ st t,
    runSteps n s = some (returnInto cs (Reply.byte st) t) ∧ dataSentBit s.cfg st = true ∧ SameHost s t := by
  induction hn : s.env.length using Nat.strong_induction_on generalizing s with
  | _ m ih =>
    subst hn
    obtain ⟨st, t, hr, hbit, -, hhost⟩ | ⟨t, hr, hw, hhost, hlt⟩ := h.round
    · refine ⟨1, by omega, st, t, ?_, hbit, hhost⟩
      rw [runSteps, h.step_eq, hr]; rfl
    · obtain ⟨n, hn, st, u, hrun, hbit, hhost'⟩ := ih _ hlt hw rfl
      refine ⟨n + 1, by omega, st, u, ?_, hhost.cfg ▸ hbit, hhost.trans hhost'⟩
      rw [runSteps, h.step_eq, hr]; exact hrun

end

/-! The callers. -/

/-- The operations that call End, directly or through Send (42_packet_io.md R195, 44_telemetry_loop.md R236). -/
def EndCallers (cs : List Position) : Prop :=
  cs.map Position.task = [] ∨ (∃ n buf, cs.map Position.task = [.op (.send n buf)]) ∨
    ∃ n buf, cs.map Position.task = [.op (.send n buf), .op .childTick]

/-- The Child's tick is among them, and its reading sounds the alert (R235). -/
def alarming (cs : List Position) : Bool := cs.any fun q => decide (q.task = .op .childTick ∧ 763 ≤ q.loc.reading.toNat)

/-- From `t`, where End has its result `r`, to `u` it has returned into its callers. -/
structure ReturnedInto (cs : List Position) (r : Reply) (t u : State) : Prop where
  idle : u.seq = []
  resp : u.resp = some (if cs = [] then r else Reply.plain)
  tickdiv : u.tickdiv = t.tickdiv
  sensor : u.sensor = t.sensor
  linkDown : alerts .linkDown u.trace = alerts .linkDown t.trace
  overThreshold : alerts .overThreshold u.trace = alerts .overThreshold t.trace + if alarming cs then 1 else 0

theorem returnInto_callers {cs : List Position} (h : EndCallers cs) (r : Reply) (t : State) :
    ReturnedInto cs r t (returnInto cs r t) := by
  obtain h | ⟨n, buf, h⟩ | ⟨n, buf, h⟩ := h
  · obtain rfl := List.map_eq_nil_iff.mp h
    exact ⟨rfl, rfl, rfl, rfl, rfl, rfl⟩
  · obtain ⟨p, rfl, hp⟩ := List.map_eq_singleton_iff.mp h
    have he : returnInto [p] r t = finishOperation Reply.plain { t with seq := [] } := by rw [returnInto, hp]; rfl
    rw [he]
    refine ⟨rfl, rfl, rfl, rfl, rfl, ?_⟩
    simp [alarming, hp]
  · obtain ⟨p, cs', rfl, hp, h'⟩ := List.map_eq_cons_iff.mp h
    obtain ⟨q, rfl, hq⟩ := List.map_eq_singleton_iff.mp h'
    obtain ⟨sq, -, hj⟩ := judged_eq q.loc.reading t
    have he : returnInto [p, q] r t = finishOperation Reply.plain { judged q.loc.reading t with seq := [] } := by
      rw [returnInto, hp]
      dsimp only
      rw [returnInto, hq]
      dsimp only
      rw [evaluate_run]; rfl
    obtain ⟨hover, hdown⟩ := alerts_judged q.loc.reading t.trace
    rw [he, hj]
    refine ⟨rfl, rfl, rfl, rfl, hdown, hover.trans ?_⟩
    simp [alarming, hp, hq]

end Sys2Proof.Machine
end

section
/-! Send up to its poll, whatever the other agents do (42_packet_io.md R195, 45_device_interpreter.md R269, R270): the flush leaves
no burst that still holds a payload, so the payload loaded after it is there when the pulse comes. -/

namespace Sys2Proof.Machine

/-! The transmit FIFO between the flush and the pulse. -/

/-- No burst in progress will take a payload from the FIFO. -/
def Device.Unclaimed (d : Device) : Prop := ∀ b, d.burst = some b → b.held = false

/-- The flush has gone by. -/
def Device.Flushed (d : Device) : Prop := d.txFifo = [] ∧ d.Unclaimed

/-- A payload waits for the pulse. -/
def Device.Loaded (d : Device) : Prop := d.txFifo ≠ [] ∧ d.Unclaimed

/-- What holds of the transmit FIFO and is no claim on it no other agent changes. -/
theorem gap_unclaimed {F : List (List Byte) → Prop} {s : State} (h : F s.dev.txFifo ∧ s.dev.Unclaimed) :
    F (gap s).dev.txFifo ∧ (gap s).dev.Unclaimed := by
  refine gap_keeps (I := fun t => F t.dev.txFifo ∧ t.dev.Unclaimed) (fun _ _ h => h) (fun e t ht => ?_) h
  cases e with
  | transmitComplete =>
    simp only [applyEvent, transmitComplete]
    split
    · cases hb : t.dev.burst with
      | none => exact ht
      | some b =>
        refine ⟨?_, nofun⟩
        show F (if b.held then t.dev.txFifo.tail else t.dev.txFifo)
        rw [ht.2 b hb, if_neg Bool.false_ne_true]
        exact ht.1
    · exact ht
  | airAdd f => simp only [applyEvent]; split <;> exact ht
  | airOffer i aw =>
    simp only [applyEvent, airOffer, offerFrame]
    split
    · exact ht
    · dsimp only
      split
      · rename_i f _ _
        rcases receive_cases t.cfg t.fresh t.ce f aw t.dev with he | ⟨-, -, -, he⟩ <;> rw [he] <;> exact ht
      · exact ht
  | airDrop i => exact ht
  | tick => simp only [applyEvent, tick]; split <;> exact ht
  | present b => simp only [applyEvent, presentInbound]; split_ifs <;> exact ht

theorem gap_flushed {s : State} (h : s.dev.Flushed) : (gap s).dev.Flushed := gap_unclaimed (F := (· = [])) h

theorem gap_loaded {s : State} (h : s.dev.Loaded) : (gap s).dev.Loaded := gap_unclaimed (F := (· ≠ [])) h

theorem Device.Flushed.inFrame {d : Device} (h : d.Flushed) (f : DevFrame) : (d.inFrame f).Flushed := h

section

variable {c w : Byte} {n : Byte} {buf : List Byte} {s t : State}

theorem flushTx_flushes {st : Byte} (hm : s.cfg.mapped = true) (hx : s.port.left = none) (hp : s.cfg.present = true)
    (h : (flushTx s.cfg).run s = .ok st t) : t.dev.Flushed := by
  let s1 := (s.entering (.op .flushTx)).entering (.op (.writeCommand s.cfg.opcFlushTx))
  have hrun : (flushTx s.cfg).run s = .ok _ (framedAll true s.cfg.opcFlushTx [] s1).leaving.leaving :=
    call_ok (call_ok (writeCommandBody_run _ (s := s1) hx))
  obtain ⟨-, rfl⟩ := EStateM.Result.ok.inj (h.symm.trans hrun)
  show (framedAll true s1.cfg.opcFlushTx [] s1).dev.Flushed
  rw [closed_command (s := s1) hm (.inl rfl) hp]
  refine (gap_flushed ?_).inFrame _
  rw [sent_command (s := s1) hm (.inl rfl) hp, command_flushTx]
  refine ⟨rfl, fun b hb => ?_⟩
  obtain ⟨b', -, rfl⟩ := Option.map_eq_some_iff.mp hb
  rfl

/-- The data bytes of a payload write touch nothing but the frame state. -/
theorem sentAll_flushed (shown : Bool) (l l0 : List Byte) {s : State} (hp : s.cfg.present = true) (hfr : s.dev.frame = .txWrite l0)
    (h : s.dev.Flushed) : (sentAll shown l s).dev.Flushed := by
  induction l generalizing l0 s with
  | nil => exact h
  | cons x l ih =>
    refine ih (l0 ++ [x]) (s := sentKept shown x s) (by simpa using hp) (by rw [counted_dev, sent_frame hp, hfr]) ?_
    rw [counted_dev, sent_dev hp, Device.exchange, gap_frame, hfr]
    exact (gap_flushed h).inFrame _

/-- The payload of a frame is appended when the frame closes. -/
theorem writeFifo_loads (hm : s.cfg.mapped = true) (hx : s.port.left = none) (hp : s.cfg.present = true) (hn : n ≠ 0)
    (h32 : n ≤ 32) (hb : n.toNat ≤ buf.length) (hd : 1 ≤ s.cfg.txDepth) (hf : s.dev.Flushed)
    (h : (writeFifo s.cfg n buf).run s = .ok () t) : t.dev.Loaded := by
  let s1 := s.entering (.op (.writeFifo n buf))
  let s2 := sent false s.cfg.opcWTxPayload (opened s1)
  have hrun : (writeFifo s.cfg n buf).run s = .ok () (closed (sentAll false (payload n buf) s2)).leaving :=
    call_ok (writeFifoBody_run _ hn buf (s := s1) hx)
  obtain ⟨-, rfl⟩ := EStateM.Result.ok.inj (h.symm.trans hrun)
  have hdec := decodeOpcode_txPayload (mapped_opcodes hm)
  have hp1 : (opened s1).cfg.present = true := by rw [opened_cfg]; exact hp
  have hp2 : s2.cfg.present = true := by rw [sent_cfg]; exact hp1
  have hfr2 : s2.dev.frame = .txWrite [] := sent_opcode (by rw [opened_cfg]; exact hdec) hp1 (opened_frame hp)
  have opcode : s2.dev.Flushed := by
    rw [sent_dev hp1, Device.exchange_open _ _ _ _ ((gap_frame _).trans (opened_frame (s := s1) hp)), opened_cfg,
      Device.openFrame,
      show decodeOpcode s1.cfg.toOpcodes _ = _ from hdec]
    refine (gap_flushed ?_).inFrame _
    rw [opened_dev (s := s1) hp]
    exact (gap_flushed (s := s1) hf).inFrame _
  have hp3 : (sentAll false (payload n buf) s2).cfg.present = true := by rw [sentAll_cfg]; exact hp2
  have hfr3 := (sentAll_payload false (payload n buf) [] hp2 hfr2).1
  obtain ⟨empty, free⟩ := gap_flushed (sentAll_flushed false (payload n buf) [] hp2 hfr2 opcode)
  show (closed _).dev.Loaded
  rw [closed_dev hp3, Device.deselect, Device.commit, gap_frame, hfr3, List.nil_append]
  dsimp only
  rw [if_neg (payload_ne_nil hn hb), if_pos (payload_length_max h32 buf), Device.appendPayload, empty, sentAll_cfg, sent_cfg,
    opened_cfg, if_pos (show ([] : List (List Byte)).length < s1.cfg.txDepth from hd)]
  exact ⟨List.cons_ne_nil _ _, free⟩

/-! The pulse. -/

/-- Raising the line starts a burst, unless one is in progress. -/
theorem trigger_underway {fresh : Nat → Byte} {d : Device} {k : Cfg} (hc : d.cell k k.regConfig 0 = some (.known w))
    (hup : w.getLsbD k.bitPwrUp = true) (htx : w.getLsbD k.bitPrimRx = false) (h : d.Loaded) :
    (d.trigger k fresh).Underway := by
  obtain ⟨head, rest, hf⟩ := List.exists_cons_of_ne_nil h.1
  cases hb : d.burst with
  | none => rw [trigger_fires hc hup htx hf hb]; exact .inl (Option.some_ne_none _)
  | some b =>
    have same : d.trigger k fresh = d := by rw [Device.trigger, hf, hb]
    rw [same]
    exact .inl (by rw [hb]; exact Option.some_ne_none b)

theorem initiate_run (s : State) : initiate.run s = .ok () (initiated s) := rfl

theorem initiate_went (s : State) : Went s (initiated s) ∧ (initiated s).seq = advance s.seq :=
  Went.called (task := .op .initiate) (((lifted_went _).trans (waited_went _ _)).trans (dropped_went _))

theorem initiated_underway (hp : s.cfg.present = true) (hce : s.ce = .low)
    (hc : s.dev.cell s.cfg s.cfg.regConfig 0 = some (.known w)) (hup : w.getLsbD s.cfg.bitPwrUp = true)
    (htx : w.getLsbD s.cfg.bitPrimRx = false) (h : s.dev.Loaded) : (initiated s).dev.Underway := by
  let s1 := s.entering (.op .initiate)
  have high : (lifted s1).dev.Underway := by
    show (gap s1).raised.dev.Underway
    rw [State.raised_low ((gap_ce s1).trans hce)]
    show ((gap s1).onDevice _).Underway
    rw [onDevice_present _ (by rw [gap_cfg]; exact hp), gap_cfg]
    exact trigger_underway ((gap_cell s1 _ _ _).trans hc) hup htx (gap_loaded (s := s1) h)
  exact gap_underway (s := waited _ _) (gap_underway high)

/-! Start. -/

/-- Start, once its mode bit `w` is seen to be taken: the flush, the load, the return. -/
theorem start_matched {t1 t2 : State} (hm : s.cfg.mapped = true) (hx : s.port.left = none) (h32 : n ≤ 32)
    (hb : n.toNat ≤ buf.length) (hr1 : (clearFlags s.cfg s.cfg.flagsAll).run (s.entering (.op (.start n buf))) = .ok () t1)
    (hr2 : (setModeBit s.cfg ModeBit.transmit.bit).run t1 = .ok false t2) (hw2 : Work (s.entering (.op (.start n buf))) t2) :
    ∃ t3 st t, (flushTx t2.cfg).run t2 = .ok st t3 ∧ Called t2 t3 ∧ (writeFifo t3.cfg n buf).run t3 = .ok () t ∧
      (start s.cfg n buf).run s = .ok false t.leaving ∧ Called s t.leaving ∧
      ∀ k b i, t.dev.cell k b i = t2.dev.cell k b i := by
  obtain ⟨t3, st, hr3, hc3, -, -, hcell3, -⟩ := flushTx_ok (s := t2) (hw2.cfg ▸ hm) (hw2.complete hx)
  have hw3 := hw2.trans hc3.work
  obtain ⟨t, hr4, hc4, -, -, hcell4, -⟩ :=
    writeFifo_any (n := n) (buf := buf) (s := t3) h32 hb (hw3.cfg ▸ hm) (hw3.complete hx) hw3.csn
  refine ⟨t3, st, t, hr3, hc3, hr4, call_ok ?_, (hw3.trans hc4.work).called, fun k b i => (hcell4 k b i).trans (hcell3 k b i)⟩
  rw [hw2.cfg] at hr3
  rw [hw3.cfg] at hr4
  simp only [startBody, EStateM.run_bind, hr1, hr2, show (flushTx s.cfg).run t2 = _ from hr3,
    show (writeFifo s.cfg n buf).run t3 = _ from hr4, Bool.false_eq_true, if_false, EStateM.run_pure]

/-- Start on a device that takes its writes: the payload is loaded, the mode bit is transmit. -/
theorem start_loads (hm : s.cfg.mapped = true) (hx : s.port.left = none) (hc : s.cached s.cfg.regConfig = some c)
    (hw : withBit c s.cfg.bitPrimRx false = w) (hl : legalValue s.cfg s.cfg.regConfig c = true)
    (hcfg : Takes s s.cfg.regConfig) (hn : n ≠ 0) (h32 : n ≤ 32) (hb : n.toNat ≤ buf.length) (hd : 1 ≤ s.cfg.txDepth) :
    ∃ t, (start s.cfg n buf).run s = .ok false t ∧ Called s t ∧
      t.dev.cell s.cfg s.cfg.regConfig 0 = some (.known w) ∧ t.dev.Loaded := by
  obtain ⟨t1, t2, -, v, hr1, hr2, hw2, -, -, -, -, -, htaken, -⟩ :=
    clear_then_mode ModeBit.transmit.bit w (s := s.entering (.op (.start n buf))) hm hx hc hw
  obtain ⟨rfl, hcell2⟩ := htaken hcfg hl
  obtain ⟨t3, st, t, hr3, hc3, hr4, hrun, hcalled, hcell⟩ :=
    start_matched hm hx h32 hb hr1 (hr2.trans (by rw [decide_eq_false (not_not.mpr rfl)])) hw2
  have hw3 := hw2.trans hc3.work
  have flushed := flushTx_flushes (hw2.cfg ▸ hm) (hw2.complete hx) (hw2.cfg ▸ hcfg.1) hr3
  exact ⟨t.leaving, hrun, hcalled, (hcell _ _ _).trans hcell2,
    show t.dev.Loaded from
      writeFifo_loads (hw3.cfg ▸ hm) (hw3.complete hx) (hw3.cfg ▸ hcfg.1) hn h32 hb (hw3.cfg ▸ hd) flushed hr4⟩

end

end Sys2Proof.Machine
end

section
/-! Send under the fairness premises (42_packet_io.md R195, 45_device_interpreter.md R275): whatever the other agents do, it comes
to the poll of End with a burst in progress or over. -/

namespace Sys2Proof.Machine

/-- Send of 1 to 32 bytes can go on to its poll, and the poll of its End will be answered. -/
structure Sendable (n : Byte) (buf : List Byte) (c : Byte) (s : State) : Prop where
  mapped : s.cfg.mapped = true
  complete : s.port.left = none
  initialised : s.initialised = true
  low : s.ce = .low
  nonzero : n ≠ 0
  max : n ≤ 32
  enough : n.toNat ≤ buf.length
  room : 1 ≤ s.cfg.txDepth
  cached : s.cached s.cfg.regConfig = some c
  legal : legalValue s.cfg s.cfg.regConfig c = true
  powered : c.getLsbD s.cfg.bitPwrUp = true
  config : Takes s s.cfg.regConfig
  status : Takes s s.cfg.regStatus
  healthy : s.dev.fault = none
  free : s.inbox = none
  fair : s.cfg.txCompletes = true

section

variable {n c : Byte} {buf : List Byte} {s : State}

/-- Start and the pulse go on to the poll. -/
theorem Sendable.started (h : Sendable n buf c s) (hs : s.seq ≠ []) : ∃ x,
    (sendBody s.cfg n buf).run s = (endSend s.cfg >>= fun _ => pure Reply.plain).run x ∧
      Went s x ∧ x.seq = advance (advance s.seq) ∧ Awaits x.seq (x.entering (.op .endSend)) ∧ x.env.length ≤ s.env.length := by
  obtain ⟨hrx8, hup8, hne⟩ := config_layout h.mapped
  obtain ⟨t, hr, hcall, hcell, hloaded⟩ := start_loads h.mapped h.complete h.cached rfl h.legal h.config h.nonzero h.max h.enough
    h.room
  have hcfg : t.cfg = s.cfg := hcall.cfg
  obtain ⟨pulse, hseq⟩ := initiate_went t
  have hwent := hcall.work.went.trans pulse
  have healthy : FaultIs s.cfg none (initiated t) := by
    have k := engineKeeps_faultIs h.mapped none
    exact (Keep.call k.blind k.initiateBody).returned
      ((Keep.call k.blind (k.startBody h.max buf)).returned ⟨rfl, h.healthy⟩ hr) (initiate_run t)
  have occupied : Occupied s.env.length 0 (initiated t) :=
    (initiate_occupied _ 0).returned ((start_occupied s.cfg n buf _ 0).returned
      ⟨h.free, Nat.le_refl _, List.length_pos_of_ne_nil hs⟩ hr) (initiate_run t)
  refine ⟨initiated t, sendBody_started hr, hwent, hseq.trans (congrArg advance hcall.seq), ?_, occupied.2.1⟩
  have under : (initiated t).dev.Underway := by
    refine initiated_underway (w := withBit c s.cfg.bitPrimRx false) (hcfg ▸ h.config.1) (hcall.ce.trans h.low) ?_ ?_ ?_ hloaded <;>
      rw [hcfg]
    · exact hcell
    · rw [withBit_bit _ _ _ _ hup8, if_neg hne, h.powered]
    · rw [withBit_bit _ _ _ _ hrx8, if_pos rfl]
  have hc : (initiated t).cfg = s.cfg := hwent.cfg
  have status : Takes (initiated t) (initiated t).cfg.regStatus := by rw [Takes, hc]; exact h.status
  exact ⟨⟨_, rfl, rfl⟩, hwent.complete h.complete, hc ▸ h.mapped, healthy.2, occupied.1, status, hc ▸ h.fair, under⟩

/-- Send returns `ok`, or waits in its poll. -/
theorem Sendable.body (h : Sendable n buf c s) (hs : s.seq ≠ []) :
    (∃ t, (sendBody s.cfg n buf).run s = .ok Reply.plain t ∧ ∀ q, SameCallers q s.seq → SameCallers q t.seq) ∨
      ∃ t, (sendBody s.cfg n buf).run s = .error .poll t ∧ Awaits (advance (advance s.seq)) t ∧ t.env.length ≤ s.env.length := by
  obtain ⟨x, hrun, hwent, hseq, hw, hle⟩ := h.started hs
  have hcfg : x.cfg = s.cfg := hwent.cfg
  obtain ⟨st, t, hr, -, hwork, -⟩ | ⟨t, hr, hw', -, hlt⟩ := hw.round
  · have hend : (endSend s.cfg).run x = .ok st t.leaving := call_ok (by rw [← hcfg]; exact hr)
    exact .inl ⟨t.leaving, by rw [hrun, EStateM.run_bind, hend]; rfl, fun q hq => hwork.called.work.callers q (hwent.callers q hq)⟩
  · have hend : (endSend s.cfg).run x = .error .poll t := by
      rw [endSend, call_run, ← hcfg, show (endBody x.cfg).run _ = _ from hr]; rfl
    exact .inr ⟨t, by rw [hrun, EStateM.run_bind, hend], hseq ▸ hw', Nat.le_trans (Nat.le_of_lt hlt) hle⟩

end

/-! The Child's tick. -/

section

variable {c : Byte} {s : State}

/-- The tick's send, called by it. -/
theorem Sendable.call {n : Byte} {buf : List Byte} (h : Sendable n buf c s) :
    (∃ t, (send s.cfg n buf).run s = .ok Reply.plain t ∧ ∀ q, SameCallers q s.seq → SameCallers q t.seq) ∨
      ∃ t p, (send s.cfg n buf).run s = .error .poll t ∧ p.task = .op (.send n buf) ∧ Awaits (p :: s.seq) t ∧
        t.env.length ≤ s.env.length := by
  have hin : Sendable n buf c (s.entering (.op (.send n buf))) := { h with }
  have hg := guarded_ok (m := sendBody s.cfg n buf)
    (startRefusal_none (s := s.entering (.op (.send n buf))) h.initialised h.low h.max)
  obtain ⟨t, hr, hcallers⟩ | ⟨t, hr, hw, hle⟩ := hin.body (List.cons_ne_nil _ _)
  · refine .inl ⟨t.leaving, call_ok (hg.trans hr), fun q hq => ?_⟩
    show SameCallers q (popped t.seq)
    rw [(hcallers _ .start).popped]
    exact hq.advance
  · refine .inr ⟨t, _, ?_, rfl, hw, hle⟩
    rw [send, call_run, hg, show (sendBody s.cfg n buf).run _ = _ from hr]; rfl

/-- A sampling tick waits where its send waits. -/
theorem childTickBody_waits {t : State} {w : Wait} (h : s.tickdiv + 1 = s.cfg.childDiv)
    (hsend : (send s.cfg Config.payloadLen (readingBuffer s.cfg s.nextReading)).run (measured s) = .error w t) :
    (childTickBody s.cfg).run s = .error w t := by
  have sample : sampleSensor.run (s.withTickdiv 0).advanced = .ok s.nextReading (measured s) := rfl
  simp only [childTickBody, EStateM.run_bind, EStateM.run_get, h, if_true, internal_run, sample, hsend]

end

/-! From the poll to the last return. -/

/-- End returns into its callers, and they return. -/
theorem Awaits.ends {cs : List Position} {s : State} (h : Awaits cs s) (hc : EndCallers cs) :
    ∃ n ≤ s.env.length + 1, ∃ st u, runSteps n s = some u ∧ dataSentBit s.cfg st = true ∧
      ReturnedInto cs (Reply.byte st) s u := by
  obtain ⟨n, hn, st, t, hrun, hbit, host⟩ := h.returns
  have hr := returnInto_callers hc (Reply.byte st) t
  exact ⟨n, hn, st, _, hrun, hbit, hr.idle, hr.resp, hr.tickdiv.trans host.tickdiv, hr.sensor.trans host.sensor,
    hr.linkDown.trans (host.alerts _), hr.overThreshold.trans (congrArg (· + _) (host.alerts _))⟩

/-- The instruction returns with `r` and leaves `P`, within one step more than the schedule has gaps. -/
def ReturnsInTime (i : Instr) (s : State) (r : Reply → Prop) (P : State → Prop) : Prop :=
  ∃ n ≤ s.env.length + 1, ∃ t u v, exec i s = .next t ∧ runSteps n t = some u ∧ u.seq = [] ∧ u.resp = some v ∧ r v ∧ P u

theorem Returns.inTime {i : Instr} {s t : State} {v : Reply} {r : Reply → Prop} {P : State → Prop} (h : Returns i s v t)
    (hr : r v) (hp : P t) : ReturnsInTime i s r P := ⟨0, Nat.zero_le _, t, t, v, h.1, rfl, h.2.1, h.2.2, hr, hp⟩

/-- An instruction that came to the poll of End. -/
theorem Awaits.inTime {cs : List Position} {i : Instr} {s t : State} {r : Reply → Prop} {P : State → Prop} (h : Awaits cs t)
    (hexec : exec i s = .next t) (hle : t.env.length ≤ s.env.length) (hc : EndCallers cs)
    (hr : ∀ st, dataSentBit t.cfg st = true → r (if cs = [] then Reply.byte st else Reply.plain))
    (hp : ∀ st u, ReturnedInto cs (Reply.byte st) t u → P u) : ReturnsInTime i s r P := by
  obtain ⟨n, hn, st, u, hrun, hbit, hu⟩ := h.ends hc
  exact ⟨n, by omega, t, u, _, hexec, hrun, hu.idle, hu.resp, hr st hbit, hp st u hu⟩

/-- End, requested with a burst in progress. -/
theorem endSend_inTime {s : State} (h : Ready s) (ht : Takes s s.cfg.regStatus) (hf : s.dev.fault = none) (hi : s.inbox = none)
    (hc : s.cfg.txCompletes = true) (hb : s.dev.burst ≠ none) :
    ReturnsInTime .endSend s (fun r => r.outcome = .ok ∧ r.d.getLsbD s.cfg.bitTxDs = true) fun _ => True := by
  have hw : Awaits s.seq (begun (.op .endSend) s) := ⟨⟨_, rfl, rfl⟩, h.2.1, h.2.2, hf, hi, ht, hc, .inl hb⟩
  rw [h.1] at hw
  obtain ⟨st, t, hr, hbit, hwork, -⟩ | ⟨t, hr, hw', host, hlt⟩ := hw.round
  · have hrun : (endBody s.cfg >>= fun st => pure (Reply.byte st)).run (begun (.op .endSend) s) = .ok (Reply.byte st) t := by
      rw [EStateM.run_bind, show (endBody s.cfg).run _ = _ from hr]; rfl
    exact (returns_of rfl h.1 hrun hwork.inside).inTime ⟨rfl, hbit⟩ trivial
  · have hrun : (endBody s.cfg >>= fun st => pure (Reply.byte st)).run (begun (.op .endSend) s) = .error .poll t := by
      rw [EStateM.run_bind, show (endBody s.cfg).run _ = _ from hr]
    have hcfg : t.cfg = s.cfg := host.cfg
    exact hw'.inTime (serve_waits h.1 hrun) (Nat.le_of_lt hlt) (.inl rfl) (fun st hst => ⟨rfl, hcfg ▸ hst⟩) fun _ _ _ => trivial

/-- Send, requested. -/
theorem send_inTime {n c : Byte} {buf : List Byte} {s : State} (hs : s.seq = []) (h : Sendable n buf c s) :
    ReturnsInTime (.send n buf) s (· = Reply.plain) fun _ => True := by
  have hin : Sendable n buf c (begun (.op (.send n buf)) s) := { h with }
  have hw : startRefusal n (begun (.op (.send n buf)) s) = none := startRefusal_none h.initialised h.low h.max
  obtain ⟨t, hr, hcallers⟩ | ⟨t, hr, hw', hle⟩ := hin.body (List.cons_ne_nil _ _)
  · exact (guarded_returns rfl hs hw hr (hcallers _ (begun_callers _ _))).inTime rfl trivial
  · have he : advance (advance (begun (.op (.send n buf)) s).seq) = [⟨.op (.send n buf), 2, Locals.start⟩] := by
      show advance (advance (_ :: s.seq)) = _
      rw [hs]; rfl
    rw [he] at hw'
    exact hw'.inTime (serve_waits hs (guarded_waits hw hr)) hle (.inr (.inl ⟨n, buf, rfl⟩)) (fun _ _ => rfl) fun _ _ _ => trivial

/-- The Child's tick, requested when it samples. -/
theorem childTick_inTime {c : Byte} {s : State} (hs : s.seq = []) (hd : s.tickdiv + 1 = s.cfg.childDiv)
    (h : Sendable Config.payloadLen (readingBuffer s.cfg s.nextReading) c s) :
    ReturnsInTime .childTick s (· = Reply.plain) fun u => u.tickdiv = 0 ∧ u.sensor = s.sensor.tail ∧
      alerts .linkDown u.trace = alerts .linkDown s.trace ∧
      alerts .overThreshold u.trace = alerts .overThreshold s.trace + (if 763 ≤ s.nextReading.toNat then 1 else 0) := by
  have hin : Sendable Config.payloadLen (readingBuffer s.cfg s.nextReading) c (measured (begun (.op .childTick) s)) := { h with }
  obtain ⟨t, hr, hcallers⟩ | ⟨t, p, hr, hp, hw, hle⟩ := hin.call
  · obtain ⟨u, hret, hdiv, hsen, -, -, -, -, hover, hdown⟩ := childTick_returns hs hd hr hcallers
    exact hret.inTime rfl ⟨hdiv, hsen, hdown, hover⟩
  · have host : SameHost (measured (begun (.op .childTick) s)) t :=
      (Keep.call (sameHost_blind _) (Keep.guarded (send_keeps (sameHost_blind _)
        (sameHost_allKept (by simp [Effect.OffHost]) _) _ _))).waited (.refl _) hr
    have hrun : (childTickBody s.cfg >>= fun _ => pure Reply.plain).run (begun (.op .childTick) s) = .error .poll t := by
      rw [EStateM.run_bind, show (childTickBody s.cfg).run _ = _ from childTickBody_waits (s := begun _ s) hd hr]
    have he : (measured (begun (.op .childTick) s)).seq =
        [⟨.op .childTick, 2, { Locals.start with reading := s.nextReading }⟩] := by
      simp only [measured, State.entering, State.unanswered, hs, advance, mapTop]; rfl
    rw [he] at hw
    refine hw.inTime (serve_waits hs hrun) hle (.inr (.inr ⟨_, _, congrArg (· :: _) hp⟩)) (fun _ _ => rfl) fun st u hu => ?_
    refine ⟨hu.tickdiv.trans host.tickdiv, hu.sensor.trans host.sensor, hu.linkDown.trans (host.alerts _),
      hu.overThreshold.trans ?_⟩
    rw [host.alerts]
    simp [alarming, hp, measured]

end Sys2Proof.Machine

namespace Sys2Proof

open Sys2Proof.Machine

/-- Settles O34: a burst in progress or over is seen by the first round that finds the schedule used up; Send leaves its payload
alone in the FIFO, whatever the other agents do, so its pulse starts such a burst. -/
theorem endTerminatesUnderFairness : Obligations.EndTerminatesUnderFairness := by
  refine ⟨fun s h ht hf hi hc hb => ?_, fun s p callers hs htasks hp hx hm ht hf hi hc hu => ?_,
    fun s n buf c h hi hce hn h32 hb hd hcached hl hup hcfg hstat hf hin hc => ?_,
    fun s c h hi hce hd hdiv hcached hl hup hcfg hstat hf hin hc => ?_⟩
  · -- End alone, requested.
    obtain ⟨n, hn, t, u, r, hexec, hrun, hidle, hresp, ⟨hok, hbit⟩, -⟩ := endSend_inTime h ht hf hi hc hb
    exact ⟨n, hn, t, u, r, hexec, hrun, hidle, hresp, hok, hbit⟩
  · -- End waiting in its callers.
    have hw : Awaits callers s := ⟨⟨p, hs, hp⟩, hx, hm, hf, hi, ht, hc, hu⟩
    have hcallers : EndCallers callers := by
      rw [hs] at htasks
      simpa [PollingTasks, EndCallers, (of_decide_eq_true hp).1] using htasks
    obtain ⟨n, hn, st, u, hrun, hbit, hr⟩ := hw.ends hcallers
    refine ⟨n, hn, u, _, hrun, hr.idle, hr.resp, ?_, fun he => ?_, fun hne => ?_, hr.linkDown, hr.overThreshold⟩
    · split <;> rfl
    · rw [if_pos he]; exact hbit
    · rw [if_neg hne]; exact ⟨rfl, rfl⟩
  · -- Send.
    obtain ⟨k, hk, t, u, r, hexec, hrun, hidle, hresp, rfl, -⟩ :=
      send_inTime h.1 ⟨h.2.2, h.2.1, hi, hce, hn, h32, hb, hd, hcached, hl, hup, hcfg, hstat, hf, hin, hc⟩
    exact ⟨k, hk, t, u, hexec, hrun, hidle, hresp⟩
  · -- The Child's tick.
    obtain ⟨k, hk, t, u, r, hexec, hrun, hidle, hresp, rfl, hhost⟩ := childTick_inTime h.1 hdiv
      ⟨h.2.2, h.2.1, hi, hce, by decide, by decide, readingBuffer_length _ _, hd, hcached, hl, hup, hcfg, hstat, hf, hin, hc⟩
    exact ⟨k, hk, t, u, hexec, hrun, hidle, hresp, hhost⟩

end Sys2Proof
end

section
/-! The status byte bit by bit (45_device_interpreter.md R261), and the radio steps of an idle node (R270, R271). -/

namespace Sys2Proof.Machine

section

variable {c : Cfg}

theorem statusByte_maxRetransmit (h : c.mapped = true) (d : Device) : (d.statusByte c).getLsbD c.bitMaxRt = d.maxRetransmit := by
  obtain ⟨-, -, h3, -, -, -, h7, -, h9, -, h11, hp⟩ := status_layout h
  have apart : ¬ (c.loRxPNo ≤ c.bitMaxRt ∧ c.bitMaxRt < c.loRxPNo + 3) := fun e =>
    (hp (c.bitMaxRt - c.loRxPNo) (by omega)).2.2.1 (by omega)
  rw [statusByte_bit d h3]
  simp [Ne.symm h7, Ne.symm h9, h11, apart]

theorem statusByte_txFull (h : c.mapped = true) (d : Device) :
    (d.statusByte c).getLsbD c.bitTxFull = decide (d.txFifo.length = c.txDepth) := by
  obtain ⟨-, -, -, h4, -, -, -, h8, -, h10, h11, hp⟩ := status_layout h
  have apart : ¬ (c.loRxPNo ≤ c.bitTxFull ∧ c.bitTxFull < c.loRxPNo + 3) := fun e =>
    (hp (c.bitTxFull - c.loRxPNo) (by omega)).2.2.2 (by omega)
  rw [statusByte_bit d h4]
  simp [Ne.symm h8, Ne.symm h10, Ne.symm h11, apart]

/-- The three bits of the pipe field all say whether the receive FIFO is empty. -/
theorem statusByte_pipe_bit (h : c.mapped = true) (d : Device) {k : Nat} (hk : k < 3) :
    (d.statusByte c).getLsbD (c.loRxPNo + k) = decide (d.rxFifo = []) := by
  obtain ⟨-, -, -, -, h5, -, -, -, -, -, -, hp⟩ := status_layout h
  obtain ⟨p1, p2, p3, p4⟩ := hp k hk
  rw [statusByte_bit d (by omega)]
  simp [p1, p2, p3, p4, hk]

theorem statusByte_pipe (h : c.mapped = true) (d : Device) :
    getField (d.statusByte c) (c.loRxPNo + 2) c.loRxPNo = if d.rxFifo = [] then 0b111 else 0b000 := by
  have h5 := (status_layout h).2.2.2.2.1
  refine BitVec.eq_of_getLsbD_eq fun i hi => ?_
  rw [getField_bit _ (Nat.le_add_right _ _) (by omega) hi, Nat.add_sub_cancel_left]
  by_cases hi3 : i < 3
  · rw [statusByte_pipe_bit h d hi3, decide_eq_true (Nat.le_of_lt_succ hi3), Bool.true_and]
    by_cases hr : d.rxFifo = []
    · rw [if_pos hr, decide_eq_true hr]
      exact (by decide : ∀ j < 3, true = (0b111#8).getLsbD j) i hi3
    · rw [if_neg hr, decide_eq_false hr]
      exact BitVec.getLsbD_zero.symm
  · rw [decide_eq_false (by omega), Bool.false_and]
    split
    · exact (by decide : ∀ j < 8, ¬ j < 3 → false = (0b111#8).getLsbD j) i hi hi3
    · exact BitVec.getLsbD_zero.symm

/-- No other bit is ever set. -/
theorem statusByte_rest (d : Device) {i : Nat} (hi : i < 8) (hn : i ∉ c.statusBits) : (d.statusByte c).getLsbD i = false := by
  simp only [BitPositions.statusBits, List.range', List.cons_append, List.nil_append, List.mem_cons, List.not_mem_nil,
    or_false, not_or] at hn
  obtain ⟨h1, h2, h3, h4, h5, h6, h7⟩ := hn
  have apart : ¬ (c.loRxPNo ≤ i ∧ i < c.loRxPNo + 3) := by omega
  rw [statusByte_bit d hi]
  simp [*]

end

/-! A step of an idle node. -/

section

variable {s : State}

/-- With nothing on its port it is one gap. -/
theorem step_idle (hs : s.seq = []) (hi : s.inbox = none) (hf : s.dev.fault = none) : step s = .next (gap s) := by
  rw [step, hf, hi, serveInbox, resume, hs, resumeAt]

/-- A gap with one step of another agent is that step. -/
theorem gap_single {e : EnvEvent} {later : List (List EnvEvent)} (h : s.env = [e] :: later) :
    gap s = applyEvent e { s with env := later } := by
  rw [gap, h, gapOf, applyEvents, applyEvents]

end

/-! The receive step. -/

section

variable {c : Cfg} {fresh : Nat → Byte} {d : Device}

/-- An address register that holds known bytes is seen as they are. -/
theorem sampleAddress_known {a : Byte} {l : List Byte} (hl : l.length = 5)
    (h : ∀ j < 5, d.cell c a j = (l[j]?).map RegCell.known) : d.sampleAddress c fresh a = l := by
  refine List.ext_getElem (by simp [Device.sampleAddress, hl]) fun j h1 h2 => ?_
  have hj : d.cell c a j = some (.known l[j]) := by rw [h j (hl ▸ h2), List.getElem?_eq_getElem h2]; rfl
  simp only [Device.sampleAddress, List.getElem_map, List.getElem_range, sample_known hj]

/-- What the device's registers and the line say together: it listens, and a frame matches it as far as channel, rate and
width go. -/
structure Heard (c : Cfg) (ce : Ce) (f : AirFrame) (cb ep ch rf pw : Byte) : Prop where
  powered : cb.getLsbD c.bitPwrUp = true
  receive : cb.getLsbD c.bitPrimRx = true
  pipe : ep.getLsbD c.bitErxP0 = true
  line : ce = .high
  chan : f.chan = ch
  rate : f.rate.getLsbD c.bitRfDr = rf.getLsbD c.bitRfDr
  width : f.payload.length = (getField pw (c.loRxPw + 5) c.loRxPw).toNat

section

variable {cb ep ch rf pw : Byte} (hcb : d.cell c c.regConfig 0 = some (.known cb)) (hep : d.cell c c.regEnRxAddr 0 = some (.known ep))
  (hch : d.cell c c.regRfCh 0 = some (.known ch)) (hrf : d.cell c c.regRfSetup 0 = some (.known rf))
  (hpw : d.cell c c.regRxPwP0 0 = some (.known pw))
include hcb hep hch hrf hpw

/-- A device listens to a frame and accepts it exactly when it hears it and the addresses match. -/
theorem accepts_iff (ce : Ce) (f : AirFrame) (aw : Byte) :
    (d.listening c fresh ce && d.accepts c fresh f aw) = true ↔ Heard c ce f cb ep ch rf pw ∧
      addrMatch f.addr aw (d.sampleAddress c fresh c.regRxAddrP0) (d.sample c fresh c.regSetupAw 0) = true := by
  simp only [Device.listening, Device.accepts, Device.poweredUp, Device.primRx, Device.pipe0Enabled, sample_known hcb,
    sample_known hep, sample_known hch, sample_known hrf, sample_known hpw, Bool.and_eq_true, decide_eq_true_eq]
  exact ⟨fun ⟨⟨⟨⟨h1, h2⟩, h3⟩, h4⟩, ⟨⟨h5, h6⟩, h7⟩, h8⟩ => ⟨⟨h1, h2, h3, h4, h5, h6, h7⟩, h8⟩,
    fun ⟨⟨h1, h2, h3, h4, h5, h6, h7⟩, h8⟩ => ⟨⟨⟨⟨h1, h2⟩, h3⟩, h4⟩, ⟨⟨h5, h6⟩, h7⟩, h8⟩⟩

/-- One it does not hear leaves it as it was. -/
theorem receive_unheard {ce : Ce} {f : AirFrame} (h : ¬ Heard c ce f cb ep ch rf pw) (aw : Byte) :
    d.receive c fresh ce f aw = d := by
  refine if_neg fun hr => h ?_
  exact ((accepts_iff hcb hep hch hrf hpw ce f aw).mp (Bool.and_eq_true_iff.mp hr).1).1

end

end

end Sys2Proof.Machine

namespace Sys2Proof

open Sys2Proof.Machine

/-- Settles O47: the step is the offer; the device's answer to it is read from its registers. -/
theorem receiveStep : Obligations.ReceiveStep := by
  intro s i aw f later cb ep ch rf pw aw' p0 hs hi hf hp he hair hcb hep hch hrf hpw haw hlen hp0
  have hgap : gap s = { s with
      env := later
      air := s.air.eraseIdx i
      dev := s.dev.receive s.cfg s.fresh s.ce f aw
      draws := s.draws + freshSpan } := by
    rw [gap_single he, applyEvent, airOffer, show ({ s with env := later } : State).air[i]? = some f from hair, offerFrame]
    simp only [hp, if_true]
    rfl
  refine ⟨gap s, step_idle hs hi hf, by rw [hgap], fun h1 h2 h3 h4 h5 h6 h7 ha hw => ?_, fun hno => ?_⟩ <;> rw [hgap]
  · have accepted := (accepts_iff (fresh := s.fresh) hcb hep hch hrf hpw s.ce f aw).mpr
      ⟨⟨h1, h2, h3, h4, h5, h6, h7⟩, if_pos ⟨ha.trans (sampleAddress_known hlen hp0).symm, hw.trans (sample_known haw).symm⟩⟩
    refine ⟨fun room => if_pos ?_, fun full => if_neg ?_⟩
    · rw [accepted, decide_eq_true room]; rfl
    · rw [accepted, decide_eq_false (Nat.not_lt.mpr full)]; exact Bool.false_ne_true
  · refine receive_unheard hcb hep hch hrf hpw (fun h => ?_) aw
    rcases hno with h' | h' | h' | h' | h' | h' | h'
    · exact absurd h.powered (by rw [h']; exact Bool.false_ne_true)
    · exact absurd h.receive (by rw [h']; exact Bool.false_ne_true)
    · exact absurd h.pipe (by rw [h']; exact Bool.false_ne_true)
    · exact absurd h.line (by rw [h']; exact Ce.noConfusion)
    · exact h' h.chan
    · exact h' h.rate
    · exact h' h.width

/-- Settles O48: the step is the end of the burst. -/
theorem transmitCompleteStep : Obligations.TransmitCompleteStep := by
  intro s b later hs hi hf hp he hb
  have hgap : gap s = { s with env := later, air := s.air ++ [b.frame], dev := s.dev.finishBurst b } := by
    rw [gap_single he, applyEvent, transmitComplete, if_pos (show ({ s with env := later } : State).cfg.present = true from hp),
      show ({ s with env := later } : State).dev.burst = some b from hb, completeBurst]
  exact ⟨gap s, step_idle hs hi hf, by rw [hgap], by rw [hgap]; rfl⟩

/-- Settles O7, field by field from the layout of the register. -/
theorem statusByteBits : Obligations.StatusByteBits := fun _ d h =>
  ⟨statusByte_dataReceived h d, statusByte_dataSent h d, statusByte_maxRetransmit h d, statusByte_pipe h d, statusByte_txFull h d,
    fun _ => statusByte_rest d⟩

end Sys2Proof
end

section
/-! A raw frame on an idle node (45_device_interpreter.md R251 to R260): the states it goes through, its response, and what it leaves
alone. -/

namespace Sys2Proof.Machine

/-- The opcode has been exchanged. -/
def rawOpened (op : Byte) (data : List Byte) (s : State) : State := sentKept true op (opened (begun (.frame (op :: data)) s))

/-- The data bytes have been exchanged. -/
def rawSent (op : Byte) (data : List Byte) (s : State) : State := sentAll true data (rawOpened op data s)

/-- Bus-select is deasserted. -/
def rawClosed (op : Byte) (data : List Byte) (s : State) : State := closed (rawSent op data s)

/-- The byte shifted in with the opcode, and those after it. -/
def rawReply (op : Byte) (data : List Byte) (s : State) : Reply :=
  { outcome := .ok, d := heard op (opened (begun (.frame (op :: data)) s)), buf := heardAll data (rawOpened op data s) }

/-- The state a raw frame returns in. -/
def rawDone (op : Byte) (data : List Byte) (s : State) : State :=
  finishOperation (rawReply op data s) (rawClosed op data s).leaving

section

variable {op : Byte} {data : List Byte} {s : State}

theorem rawClosed_frame (op : Byte) (data : List Byte) (s : State) :
    Frame (begun (.frame (op :: data)) s) (rawClosed op data s) where
  toBus := (opened_bus _).trans ((sent_bus true op _).trans ((Bus.ofSeq _ _).trans ((sentAll_bus true data _).trans (closed_bus _))))
  csn := closed_csn _
  callers q hq := by
    show SameCallers q (closed (sentAll true data _)).seq
    rw [closed_seq]
    refine (sentAll_callers true data ?_).advance
    show SameCallers q (mapTop _ (sent true op (opened _)).seq)
    rw [sent_seq, opened_seq]
    exact hq.advance.advance.mapTop _

/-- The frame runs to its end, where a device fault stops the machine. -/
theorem runFrame_raw (h : Ready s) : runFrame (op :: data) s = faultOr (rawDone op data s) (rawClosed op data s).dev.fault := by
  obtain ⟨hserve, -⟩ := serve_ok h.1 (frameBody_run op data (s := begun (.frame (op :: data)) s) h.2.1)
    ((rawClosed_frame op data s).callers _ (begun_callers _ _))
  rw [runFrame, show serve (.frame (op :: data)) (frameBody (op :: data)) s = .next (rawDone op data s) from hserve,
    stopOnDeviceFault]
  rfl

theorem rawDone_idle (h : Ready s) : (rawDone op data s).seq = [] :=
  (serve_ok h.1 (frameBody_run op data (s := begun (.frame (op :: data)) s) h.2.1)
    ((rawClosed_frame op data s).callers _ (begun_callers _ _))).2

/-- A frame that leaves the device in no fault returns. -/
theorem raw_returns {i : Instr} (he : encode s.cfg.toOpcodes i = .frame (op :: data)) (h : Ready s)
    (hf : (rawClosed op data s).dev.fault = none) : Returns i s (rawReply op data s) (rawDone op data s) := by
  refine ⟨?_, rawDone_idle h, rfl⟩
  rw [exec_frame he, runFrame_raw h, hf, faultOr]

theorem rawReply_length : (rawReply op data s).buf.length = data.length := heardAll_length _ _

theorem rawDone_cache : (rawDone op data s).cache = s.cache := (rawClosed_frame op data s).cache

theorem rawDone_csn : (rawDone op data s).csn = .deasserted := (rawClosed_frame op data s).csn

theorem rawDone_ce : (rawDone op data s).ce = s.ce := (rawClosed_frame op data s).ce

theorem rawDone_cfg : (rawDone op data s).cfg = s.cfg := (rawClosed_frame op data s).cfg

theorem rawDone_air (h : Quiet s) : (rawDone op data s).air = s.air := ((rawClosed_frame op data s).quiet h).2.1

@[simp] theorem rawOpened_cfg : (rawOpened op data s).cfg = s.cfg :=
  (sent_cfg true op (opened (begun (.frame (op :: data)) s))).trans (opened_cfg _)

@[simp] theorem rawSent_cfg : (rawSent op data s).cfg = s.cfg := (sentAll_cfg true data _).trans rawOpened_cfg

/-! The fault record. -/

/-- No data exchange changes it. -/
theorem sentAll_fault (l : List Byte) {s : State} (h : s.dev.frame ≠ .awaitOpcode) : (sentAll true l s).dev.fault = s.dev.fault := by
  induction l generalizing s with
  | nil => rfl
  | cons b l ih =>
    cases hp : s.cfg.present with
    | false => rw [((sentAll_bus true (b :: l) s).absent hp)]
    | true =>
      have hg : (gap s).dev.frame ≠ .awaitOpcode := by rwa [gap_frame]
      have hd : (sentKept true b s).dev = ((gap s).dev.exchange s.cfg (gap s).draw b).2 := (counted_dev ..).trans (sent_dev hp)
      refine (ih ?_).trans ?_
      · rw [hd, Device.exchange_frame]
        cases hf : (gap s).dev.frame with
        | awaitOpcode => exact absurd hf hg
        | _ => exact nofun
      · rw [hd, (Device.exchange_data _ _ _ _ hg).2.2.2, gap_fault]

section

variable (hp : s.cfg.present = true)
include hp

theorem rawOpened_dev : (rawOpened op data s).dev = (gap (opened (begun (.frame (op :: data)) s))).dev.openFrame s.cfg op := by
  have hframe : (gap (opened (begun (.frame (op :: data)) s))).dev.frame = .awaitOpcode :=
    (gap_frame _).trans (opened_frame (s := begun (.frame (op :: data)) s) hp)
  show (sent true op (opened _)).dev = _
  rw [sent_dev (by rw [opened_cfg]; exact hp), Device.exchange_open _ _ _ _ hframe, opened_cfg]
  rfl

/-- A frame with a known opcode and no payload byte too many is no fault. -/
theorem rawClosed_fault (hop : decodeOpcode s.cfg.toOpcodes op ≠ none) (hh : (rawSent op data s).dev.frame.Holds Config.fifoMax) :
    (rawClosed op data s).dev.fault = s.dev.fault := by
  have hawait : (rawOpened op data s).dev.frame ≠ .awaitOpcode := by
    rw [rawOpened_dev hp]; exact (Device.openFrame_holds _ _ _).1
  rw [rawClosed, closed_dev (by rw [rawSent_cfg]; exact hp), Device.deselect_fault (by rwa [gap_frame]), gap_fault, rawSent,
    sentAll_fault data hawait, rawOpened_dev hp, Device.openFrame_fault hop, gap_fault,
    opened_dev (s := begun (.frame (op :: data)) s) hp]
  exact gap_fault _

end

end

/-! With no other agent stepping. -/

section

variable {op : Byte} {data : List Byte} {s : State}

theorem rawOpened_still (hq : Quiet s) : Quiet (rawOpened op data s) := counted_quiet (sent_quiet (opened_quiet hq))

theorem rawSent_still (hq : Quiet s) : Quiet (rawSent op data s) := ((sentAll_bus true data _).quiet (rawOpened_still hq)).1

variable (hp : s.cfg.present = true) (hq : Quiet s)
include hp hq

theorem rawOpened_quiet : (rawOpened op data s).dev = (s.dev.inFrame .awaitOpcode).openFrame s.cfg op :=
  (opcode_quiet (s := begun (.frame (op :: data)) s) hp hq true op).1

theorem rawReply_quiet : rawReply op data s =
    { outcome := .ok, d := s.dev.statusByte s.cfg, buf := heardAll data (rawOpened op data s) } := by
  rw [rawReply, (opcode_quiet (s := begun (.frame (op :: data)) s) hp hq true op).2]
  rfl

theorem rawClosed_quiet : (rawClosed op data s).dev = (rawSent op data s).dev.deselect s.cfg := by
  rw [rawClosed, closed_dev_quiet (by rw [rawSent_cfg]; exact hp) (rawSent_still hq), rawSent_cfg]

/-- A frame whose end is known, and is no fault. -/
theorem raw_quiet {i : Instr} {d : Device} (he : encode s.cfg.toOpcodes i = .frame (op :: data)) (h : Ready s)
    (hd : (rawSent op data s).dev.deselect s.cfg = d) (hf : d.fault = none) :
    Returns i s { outcome := .ok, d := s.dev.statusByte s.cfg, buf := heardAll data (rawOpened op data s) } (rawDone op data s) ∧
      (rawDone op data s).dev = d := by
  have hend : (rawClosed op data s).dev = d := (rawClosed_quiet hp hq).trans hd
  exact ⟨rawReply_quiet (data := data) hp hq ▸ raw_returns he h (by rw [hend, hf]), hend⟩

end

end Sys2Proof.Machine
end

section
/-! What each opcode does in a raw frame, and the device faults (45_device_interpreter.md R253 to R259). -/

namespace Sys2Proof.Machine

theorem rawOpened_present {s : State} (hp : s.cfg.present = true) (op : Byte) (data : List Byte) :
    (rawOpened op data s).cfg.present = true := by rw [rawOpened_cfg]; exact hp

/-- The first byte of the status register reads as the status byte (R253). -/
theorem registerByte_status {c : Cfg} {a b : Byte} {d : Device} (ha : a = c.regStatus) (h : d.cell c a 0 = some (.known b))
    (draw : Byte) : d.registerByte c draw a 0 = d.statusByte c := by
  rw [Device.registerByte, h]
  exact if_pos ha

end Sys2Proof.Machine

namespace Sys2Proof

open Sys2Proof.Machine

/-- Settles O8: the opcode opens a read frame, whose data bytes leave all but the frame state alone. -/
theorem busRegisterRead : Obligations.BusRegisterRead := by
  intro s addr data h hq hp hf ha
  have hle := Laws.RoundTrip.address_le ha
  have hdec := decodeOpcode_read s.cfg.toOpcodes hle
  have hopen : (rawOpened (readOpcode (addr.setWidth 8)) data s).dev = s.dev.inFrame (.regRead (addr.setWidth 8) 0) := by
    rw [rawOpened_quiet hp hq, Device.openFrame, hdec]; rfl
  have hp1 := rawOpened_present hp (readOpcode (addr.setWidth 8)) data
  obtain ⟨-, -, hbytes, hdev⟩ := sentAll_register data (addr.setWidth 8) 0 hp1 (by rw [hopen]; rfl)
  have hend : (rawSent (readOpcode (addr.setWidth 8)) data s).dev.deselect s.cfg = { s.dev with frame := .none } := by
    rw [rawSent, hdev (rawOpened_still hq), hopen]; rfl
  obtain ⟨hret, hd⟩ := raw_quiet (i := .rRegister addr data) hp hq rfl h hend hf
  refine ⟨_, _, hret, heardAll_length _ _, hd, rawDone_cache, rawDone_csn, rawDone_ce, rawDone_air hq, fun hne i hi b hb => ?_,
    fun he hpos b hb => ?_⟩
  · refine hbytes (by rw [rawOpened_cfg]; exact hne) i hi b ?_
    rw [rawOpened_cfg, hopen, Nat.zero_add]; exact hb
  · obtain ⟨x, l, rfl⟩ := List.exists_cons_of_length_pos hpos
    show some (heard x _) = _
    rw [heard_quiet hp1 (rawOpened_still hq), hopen, rawOpened_cfg]
    exact congrArg some (registerByte_status (d := s.dev.inFrame (.regRead (addr.setWidth 8) 0)) he hb _)

/-- Settles O10: the head leaves the FIFO at the end of the frame, if a data byte was exchanged. -/
theorem busPayloadRead : Obligations.BusPayloadRead := by
  intro s data h hq hp hf
  have hdec := decodeOpcode_rxPayload (mapped_opcodes h.2.2)
  have hopen : (rawOpened s.cfg.opcRRxPayload data s).dev = s.dev.inFrame (.rxRead 0) := by
    rw [rawOpened_quiet hp hq, Device.openFrame, hdec]; rfl
  have hp1 := rawOpened_present hp s.cfg.opcRRxPayload data
  obtain ⟨hdev, hbytes⟩ := (sentAll_read data 0 hp1 (by rw [hopen]; rfl)).2.2 (rawOpened_still hq)
  have hend : (rawSent s.cfg.opcRRxPayload data s).dev.deselect s.cfg =
      { s.dev with frame := .none, rxFifo := if data = [] then s.dev.rxFifo else s.dev.rxFifo.tail } := by
    rw [rawSent, hdev, hopen]
    cases data <;> rfl
  obtain ⟨hret, hd⟩ := raw_quiet (i := .rRxPayload data) hp hq rfl h hend hf
  refine ⟨_, _, hret, heardAll_length _ _, rawDone_cache, rawDone_csn, rawDone_ce, rawDone_air hq, fun head rest hr i hi hlt => ?_, hd⟩
  rw [hopen] at hbytes
  simpa using hbytes head rest hr i hi (by omega)

/-- Settles O11: the frame collects its bytes; its end appends them where there is room. -/
theorem busPayloadWrite : Obligations.BusPayloadWrite := by
  intro s data h32 h hq hp hf
  have hdec := decodeOpcode_txPayload (mapped_opcodes h.2.2)
  have hopen : (rawOpened s.cfg.opcWTxPayload data s).dev = s.dev.inFrame (.txWrite []) := by
    rw [rawOpened_quiet hp hq, Device.openFrame, hdec]; rfl
  have hp1 := rawOpened_present hp s.cfg.opcWTxPayload data
  have hdev := (sentAll_payload true data [] hp1 (by rw [hopen]; rfl)).2.2 (rawOpened_still hq)
  have hend : (rawSent s.cfg.opcWTxPayload data s).dev.deselect s.cfg = { s.dev with
      frame := .none
      txFifo := if data = [] ∨ s.cfg.txDepth ≤ s.dev.txFifo.length then s.dev.txFifo else s.dev.txFifo ++ [data] } := by
    rw [rawSent, hdev, hopen, List.nil_append, Device.deselect, Device.commit]
    dsimp only [Device.inFrame]
    by_cases hnil : data = []
    · rw [if_pos hnil, if_pos (.inl hnil)]
    · rw [if_neg hnil, if_pos (show data.length ≤ Config.fifoMax from h32), Device.appendPayload]
      by_cases room : s.dev.txFifo.length < s.cfg.txDepth
      · rw [if_pos room, if_neg (not_or.mpr ⟨hnil, Nat.not_le.mpr room⟩)]
      · rw [if_neg room, if_pos (.inr (Nat.not_lt.mp room))]
  obtain ⟨hret, hd⟩ := raw_quiet (i := .wTxPayload data) hp hq rfl h hend hf
  exact ⟨_, _, hret, rawDone_cache, rawDone_csn, rawDone_ce, rawDone_air hq, hd⟩

end Sys2Proof
end

section
/-! The fixed commands, and the device faults, as raw frames (45_device_interpreter.md R254, R259). -/

namespace Sys2Proof.Machine

section

variable {s : State}

/-- The end of a frame that leaves the device in fault stops the machine. -/
theorem step_raw_faults {op : Byte} {data : List Byte} {e : DecodeError} {why : DeviceFault} (h : Ready s) (hf : s.dev.fault = none)
    (hb : s.inbox = some (.frame (op :: data))) (he : decode s.cfg.toOpcodes (.frame (op :: data)) = .error e)
    (hreject : reject e (.frame (op :: data)) (fetched s) = runFrame (op :: data) (fetched s))
    (hwhy : (rawClosed op data (fetched s)).dev.fault = some why) : step s = .fault (.device why) := by
  rw [step_inbox hf hb, he, execute, hreject, runFrame_raw (s := fetched s) h, hwhy, faultOr]

variable (hp : s.cfg.present = true)
include hp

/-- A raw frame of a command: the command at its opcode, nothing after it. -/
theorem raw_command {i : Instr} {b : Byte} {data : List Byte} (hb : b = s.cfg.opcFlushTx ∨ b = s.cfg.opcFlushRx ∨ b = s.cfg.opcNop)
    (he : encode s.cfg.toOpcodes i = .frame (b :: data)) (h : Ready s) (hq : Quiet s) (hf : s.dev.fault = none) :
    Returns i s { outcome := .ok, d := s.dev.statusByte s.cfg, buf := heardAll data (rawOpened b data s) } (rawDone b data s) ∧
      (rawDone b data s).dev = (s.dev.command s.cfg b).inFrame .none := by
  have hopen : (rawOpened b data s).dev = ((s.dev.inFrame .awaitOpcode).command s.cfg b).inFrame .done :=
    (rawOpened_quiet hp hq).trans (openFrame_command h.2.2 hb _)
  have hdev := (sentAll_done data (rawOpened_present hp b data) (by rw [hopen]; rfl)).2.2 (rawOpened_still hq)
  have hend : (rawSent b data s).dev.deselect s.cfg = (s.dev.command s.cfg b).inFrame .none := by
    rw [rawSent, hdev, hopen, command_fifos h.2.2 b (d := s.dev.inFrame .awaitOpcode) hq.2, command_fifos h.2.2 b hq.2]; rfl
  exact raw_quiet hp hq he h hend (by rw [command_fifos h.2.2 b hq.2]; exact hf)

theorem rawClosed_badOpcode {op : Byte} (data : List Byte) (hop : decodeOpcode s.cfg.toOpcodes op = none) :
    (rawClosed op data s).dev.fault = some (.badOpcode op) := by
  have hopen : (rawOpened op data s).dev.frame = .done ∧ (rawOpened op data s).dev.fault = some (.badOpcode op) := by
    rw [rawOpened_dev hp, Device.openFrame, hop]
    exact ⟨rfl, rfl⟩
  have hframe := (sentAll_done data (rawOpened_present hp op data) hopen.1).1
  have holds : (gap (rawSent op data s)).dev.frame.Holds Config.fifoMax := by
    rw [gap_frame, rawSent, hframe]; exact ⟨nofun, nofun⟩
  rw [rawClosed, closed_dev (by rw [rawSent_cfg]; exact hp), Device.deselect_fault holds, gap_fault, rawSent, sentAll_fault data (by rw [hopen.1]; exact nofun)]
  exact hopen.2

theorem rawClosed_tooLong {op : Byte} {data : List Byte} (hop : decodeOpcode s.cfg.toOpcodes op = some .writeTx)
    (hlong : 32 < data.length) : (rawClosed op data s).dev.fault = some (.payloadTooLong data.length) := by
  have hopen : (rawOpened op data s).dev.frame = .txWrite [] := by rw [rawOpened_dev hp, Device.openFrame, hop]; rfl
  have hframe : (gap (rawSent op data s)).dev.frame = .txWrite data :=
    (gap_frame _).trans (sentAll_payload true data [] (rawOpened_present hp op data) hopen).1
  rw [rawClosed, closed_dev (by rw [rawSent_cfg]; exact hp), Device.deselect, Device.commit, hframe]
  dsimp only
  rw [if_neg (List.ne_nil_of_length_pos (by omega)), if_neg (Nat.not_le.mpr hlong)]
  rfl

end

end Sys2Proof.Machine

namespace Sys2Proof

open Sys2Proof.Machine

/-- Settles O12, with the layout of the status byte for its last bits. -/
theorem busFixedCommands : Obligations.BusFixedCommands := by
  intro s data h hq hp hf
  have hm := h.2.2
  obtain ⟨rtx, dtx⟩ := raw_command (i := .busFlushTx data) hp (.inl rfl) rfl h hq hf
  obtain ⟨rrx, drx⟩ := raw_command (i := .busFlushRx data) hp (.inr (.inl rfl)) rfl h hq hf
  obtain ⟨rnop, dnop⟩ := raw_command (i := .busNop data) hp (.inr (.inr rfl)) rfl h hq hf
  rw [command_fifos hm _ hq.2, if_pos rfl, if_neg (flushRx_ne_flushTx (mapped_opcodes hm)).symm] at dtx
  rw [command_flushRx hm] at drx
  rw [command_nop hm] at dnop
  refine ⟨⟨_, _, rtx, dtx, rawDone_cache, rawDone_ce, rawDone_air hq, ?_⟩,
    ⟨_, _, rrx, drx, rawDone_cache, rawDone_ce, rawDone_air hq, ?_⟩,
    _, _, rnop, dnop, rawDone_cache, rawDone_ce, rawDone_air hq⟩
  · rw [rawDone_cfg, statusByte_txFull hm, dtx]
    exact decide_eq_decide.mpr eq_comm
  · rw [rawDone_cfg, statusByte_pipe hm, drx]
    exact if_pos rfl

/-- Settles O13: the fault is recorded at the opcode, or at the end of the frame, and the frame is run to its end. -/
theorem deviceFaultStops : Obligations.DeviceFaultStops := by
  refine ⟨fun s op data h hp hf hb hop => ?_, fun s data h hp hf hb hlong => ?_, fun s why hf => by rw [step, hf]⟩
  · have he : decode s.cfg.toOpcodes (.frame (op :: data)) = .error (.badOpcode op) := by rw [decode, decodeFrame, hop]
    exact step_raw_faults h hf hb he rfl (rawClosed_badOpcode (s := fetched s) hp data hop)
  · have hop := decodeOpcode_txPayload (mapped_opcodes h.2.2)
    have he : decode s.cfg.toOpcodes (.frame (s.cfg.opcWTxPayload :: data)) = .error (.frameTooLong data.length) := by
      rw [decode, decodeFrame, hop]
      exact if_neg (Nat.not_le.mpr hlong)
    exact step_raw_faults h hf hb he rfl (rawClosed_tooLong (s := fetched s) hp hop hlong)

end Sys2Proof
end

section
/-! W_REGISTER as a raw frame, whatever the other agents do (45_device_interpreter.md R255, R256, R262, R264). -/

namespace Sys2Proof.Machine

/-! The stores of one frame. -/

section

variable {c : Cfg} {a : Byte}

theorem storeAll_stuck (h : a ∈ c.stuck) (l : List Byte) (i : Nat) (d : Device) : d.storeAll c a i l = d := by
  induction l generalizing i d with
  | nil => rfl
  | cons x l ih => rw [Device.storeAll, Device.store_stuck h, ih]

/-- At a read-only address the first byte is dropped. -/
theorem storeAll_readOnly (h : a ∈ c.readOnlyRegs) {l : List Byte} (hl : l.length ≤ 1) (d : Device) : d.storeAll c a 0 l = d := by
  match l, hl with
  | [], _ => rfl
  | [x], _ => exact Device.store_readOnly h x d

/-- Two bytes or more leave a register of one byte unsettled. -/
theorem storeAll_overlong (h5 : isFiveByte c a = false) (hs : a ∉ c.stuck) (ha : a ≤ Config.regHi) {l : List Byte} (hl : 2 ≤ l.length)
    (d : Device) : (d.storeAll c a 0 l).cell c a 0 = some .unsettled := by
  match l, hl with
  | x :: y :: l, _ => exact storeAll_unsettles h5 hs ha (y :: l) 1 Nat.one_ne_zero (d.store c a 0 x) (.inl (List.cons_ne_nil y l))

/-- A byte after the fifth leaves a register of five bytes unsettled. -/
theorem storeAll_overlong_five (hm : c.mapped = true) (h5 : isFiveByte c a = true) (hs : a ∉ c.stuck) (l : List Byte) (i : Nat)
    (d : Device) (h : 5 < i + l.length ∧ l ≠ [] ∨ 5 ≤ i ∧ ∀ j < 5, d.cell c a j = some .unsettled) {j : Nat} (hj : j < 5) :
    (d.storeAll c a i l).cell c a j = some .unsettled := by
  obtain ⟨hr, hst, -⟩ := five_facts hm h5
  induction l generalizing i d with
  | nil => exact (h.resolve_left fun e => e.2 rfl).2 j hj
  | cons x l ih =>
    refine ih (i + 1) (d.store c a i x) ?_
    by_cases hi : 5 ≤ i
    · refine .inr ⟨by omega, fun k hk => ?_⟩
      obtain ⟨y, hy⟩ := cell_five hm h5 d k hk
      rw [store_unsettles hs (.inr ⟨hr, .inr (.inl ⟨hst, h5, hi⟩)⟩), Device.cell_unsettle, if_pos rfl, hy]
      rfl
    · have hlen : 5 < i + (l.length + 1) := (h.resolve_right fun e => hi e.1).1
      exact .inl ⟨by omega, List.ne_nil_of_length_pos (by omega)⟩

end

/-! The frame. -/

section

variable {op a : Byte} {data : List Byte} {s : State} (hop : decodeOpcode s.cfg.toOpcodes op = some (.writeReg a))
  (hp : s.cfg.present = true)
include hop hp

theorem rawOpened_write : (rawOpened op data s).dev.frame = .regWrite a 0 := by rw [rawOpened_dev hp, Device.openFrame, hop]; rfl

theorem rawSent_write : (rawSent op data s).dev.frame = .regWrite a data.length := by
  rw [rawSent, (sentAll_store true a data 0 (rawOpened_present hp op data) (rawOpened_write hop hp)).1, Nat.zero_add]

theorem rawClosed_write_fault : (rawClosed op data s).dev.fault = s.dev.fault :=
  rawClosed_fault hp (by rw [hop]; exact Option.some_ne_none _) (by rw [rawSent_write hop hp]; exact ⟨nofun, nofun⟩)

/-- The registers after the frame are those its bytes stored, whatever happened in its gaps. -/
theorem rawDone_write_cell (b : Byte) (j : Nat) :
    (rawDone op data s).dev.cell s.cfg b j = (s.dev.storeAll s.cfg a 0 data).cell s.cfg b j := by
  have stores := (sentAll_store true a data 0 (rawOpened_present hp op data) (rawOpened_write hop hp)).2.1 b j
  rw [rawOpened_cfg] at stores
  show (closed (rawSent op data s)).dev.cell s.cfg b j = _
  rw [closed_cell, rawSent, stores]
  refine storeAll_cell_congr data 0 (fun b j => ?_) b j
  rw [rawOpened_dev hp, Device.openFrame, hop]
  show (gap (opened (begun (.frame (op :: data)) s))).dev.cell s.cfg b j = _
  rw [gap_cell, opened_cell]
  rfl

/-- With no other agent stepping, so is the rest of the device. -/
theorem rawDone_write_quiet (hq : Quiet s) : (rawDone op data s).dev = (s.dev.storeAll s.cfg a 0 data).inFrame .none := by
  have hopen : (rawOpened op data s).dev = s.dev.inFrame (.regWrite a 0) := by
    rw [rawOpened_quiet hp hq, Device.openFrame, hop]; rfl
  have stores := (sentAll_store true a data 0 (rawOpened_present hp op data) (rawOpened_write hop hp)).2.2 (rawOpened_still hq)
  refine (rawClosed_quiet hp hq).trans ?_
  rw [rawSent, stores, hopen, rawOpened_cfg, storeAll_inFrame]
  rfl

end

end Sys2Proof.Machine

namespace Sys2Proof

open Sys2Proof.Machine

/-- Settles O9: what the frame leaves in the registers are the stores of its bytes, one after the other. -/
theorem busRegisterWrite : Obligations.BusRegisterWrite := by
  intro s addr data a haddr h hp hf haok
  have ha : a ≤ Config.regHi := haddr ▸ Laws.RoundTrip.address_le haok
  have hm := h.2.2
  have hop := decodeOpcode_write s.cfg.toOpcodes ha
  have hcell : ∀ b j, (rawDone (writeOpcode a) data s).dev.cell s.cfg b j = (s.dev.storeAll s.cfg a 0 data).cell s.cfg b j :=
    rawDone_write_cell hop hp
  have hret : Returns (.wRegister addr data) s _ _ :=
    raw_returns (op := writeOpcode a) (data := data) (by rw [haddr]; rfl) h ((rawClosed_write_fault hop hp).trans hf)
  refine ⟨_, _, hret, rfl, rawReply_length, rawDone_cache, rawDone_csn, rawDone_ce, fun b hb i => ?_, fun hdrop i => ?_,
    fun hs h5 hlen => ?_, fun hs hr => ⟨fun hst h5 v hv hl => ?_, fun hst h5 v hv hl => ?_, fun h5 hlen i hi => ?_,
      fun h5 hlen i hi => ?_, ?_⟩⟩
  · rw [hcell, storeAll_other s.cfg hb]
  · rw [hcell]
    obtain hs | ⟨hr, hlen⟩ := hdrop
    · rw [storeAll_stuck hs]
    · rw [storeAll_readOnly hr hlen]
  · rw [hcell, storeAll_overlong h5 hs ha hlen]
  · subst hv
    exact (hcell a 0).trans ((cell_store_first ha hs hr hst v s.dev).trans (by rw [if_pos (.inl hl)]))
  · subst hv
    exact (hcell a 0).trans ((cell_store_first ha hs hr hst v s.dev).trans (by rw [if_neg (by simp [hl, h5])]))
  · rw [hcell, storeAll_five hm h5 hs data 0 s.dev (by omega)]
    by_cases hi' : i < data.length
    · rw [if_pos ⟨Nat.zero_le i, by omega⟩, dif_pos hi', Nat.sub_zero, List.getElem?_eq_getElem hi']; rfl
    · rw [if_neg (by omega), dif_neg hi']
  · rw [hcell, storeAll_overlong_five hm h5 hs data 0 s.dev (.inl ⟨by omega, List.ne_nil_of_length_pos (by omega)⟩) hi]
  · -- The status register.
    intro hst hq v hv
    subst hv hst
    have hdev : (rawDone (writeOpcode s.cfg.regStatus) [v] s).dev = (s.dev.clearFlags s.cfg v).inFrame .none :=
      (rawDone_write_quiet hop hp hq).trans (congrArg _ (store_status hm hs v s.dev))
    exact ⟨congrArg Device.dataReceived hdev, congrArg Device.dataSent hdev, congrArg Device.maxRetransmit hdev,
      fun i => (hcell _ i).trans (cell_store_status hm v s.dev s.cfg _ i)⟩

end Sys2Proof
end

section
/-! An absent device (45_device_interpreter.md R276): every byte read is `ABSENT_BYTE`, so its bits decide how the operations end. -/

namespace Sys2Proof.Machine

/-- Writing a bit changes nothing exactly when the byte has it already. -/
theorem withBit_eq_self {v : Byte} {j : Nat} {b : Bool} (hj : j < 8) : withBit v j b = v ↔ v.getLsbD j = b := by
  refine ⟨fun h => ?_, fun h => BitVec.eq_of_getLsbD_eq fun k hk => ?_⟩
  · rw [← h, withBit_bit _ _ _ _ hj, if_pos rfl]
  · rw [withBit_bit _ _ _ _ hk]
    split
    · next e => rw [e, h]
    · rfl

section

variable {n : Byte} {buf : List Byte} {s : State} (hm : s.cfg.mapped = true) (hx : s.port.left = none) (hp : s.cfg.present = false)
  (hc : s.cached s.cfg.regConfig = some s.cfg.absentByte)
include hm hx hp hc

/-- The byte read back is `ABSENT_BYTE`, which the byte written differs from exactly in the mode bit. -/
theorem mode_alone (m : Byte) : ∃ t1 t, (clearFlags s.cfg s.cfg.flagsAll).run s = .ok () t1 ∧
    (setModeBit s.cfg m).run t1 = .ok (decide (s.cfg.absentByte.getLsbD s.cfg.bitPrimRx ≠ m.getLsbD 0)) t ∧ Work s t := by
  obtain ⟨t1, t, -, v, hr1, hr2, hwork, -, -, -, habs, -⟩ := clear_then_mode m _ hm hx hc rfl
  refine ⟨t1, t, hr1, hr2.trans ?_, hwork⟩
  rw [habs hp]
  exact congrArg (EStateM.Result.ok · t) (decide_eq_decide.mpr (not_congr (eq_comm.trans (withBit_eq_self (config_layout hm).1))))

/-- Start fails when `ABSENT_BYTE` says receive. -/
theorem startBody_alone (hb : s.cfg.absentByte.getLsbD s.cfg.bitPrimRx = true) :
    ∃ t, (startBody s.cfg n buf).run s = .ok true t ∧ Work s t := by
  obtain ⟨t1, t, hr1, hr2, hwork⟩ := mode_alone hm hx hp hc ModeBit.transmit.bit
  rw [hb] at hr2
  exact ⟨t, by simp only [startBody, EStateM.run_bind, hr1, hr2]; rfl, hwork⟩

/-- It goes on to its return when `ABSENT_BYTE` says transmit. -/
theorem start_alone (hb : s.cfg.absentByte.getLsbD s.cfg.bitPrimRx = false) (h32 : n ≤ 32) (hlen : n.toNat ≤ buf.length) :
    ∃ t, (start s.cfg n buf).run s = .ok false t ∧ Called s t := by
  obtain ⟨t1, t2, hr1, hr2, hwork⟩ := mode_alone (s := s.entering (.op (.start n buf))) hm hx hp hc ModeBit.transmit.bit
  have taken : (setModeBit s.cfg ModeBit.transmit.bit).run t1 = .ok false t2 :=
    hr2.trans (congrArg (EStateM.Result.ok · t2) (decide_eq_false (not_not.mpr hb)))
  obtain ⟨-, -, t, -, -, -, hrun, hcalled, -⟩ := start_matched hm hx h32 hlen hr1 taken hwork
  exact ⟨t.leaving, hrun, hcalled⟩

/-- So Send comes to its poll. -/
theorem sendBody_alone (hb : s.cfg.absentByte.getLsbD s.cfg.bitPrimRx = false) (h32 : n ≤ 32) (hlen : n.toNat ≤ buf.length) :
    ∃ x, (sendBody s.cfg n buf).run s = (endSend s.cfg >>= fun _ => pure Reply.plain).run x ∧ Went s x := by
  obtain ⟨t, hr, hcalled⟩ := start_alone hm hx hp hc hb h32 hlen
  exact ⟨initiated t, sendBody_started hr, hcalled.went.trans (initiate_went t).1⟩

end

/-- The poll reads `ABSENT_BYTE`: with its bit "data sent" set End returns. -/
theorem endSend_alone {s : State} (hm : s.cfg.mapped = true) (hx : s.port.left = none) (hp : s.cfg.present = false)
    (hb : s.cfg.absentByte.getLsbD s.cfg.bitTxDs = true) : ∃ t, (endSend s.cfg).run s = .ok s.cfg.absentByte t ∧ Called s t := by
  obtain ⟨st, u, hpoll, hround⟩ := endBody_round (s := s.entering (.op .endSend)) hm hx
  obtain rfl : st = s.cfg.absentByte := hpoll.alone hp
  obtain ⟨t, hr, hwork, -⟩ := hpoll.clears hm hx
  exact ⟨t.leaving, call_ok (hround.trans ((if_pos hb).trans hr)), hwork.called⟩

/-! The requests. -/

section

variable {n : Byte} {buf : List Byte} {s : State} (h : Ready s) (hi : s.initialised = true) (hce : s.ce = .low)
  (hp : s.cfg.present = false) (hc : s.cached s.cfg.regConfig = some s.cfg.absentByte)
include h hi hce hp hc

theorem send_alone_fails (hb : s.cfg.absentByte.getLsbD s.cfg.bitPrimRx = true) (h32 : n ≤ 32) :
    ∃ t, Returns (.send n buf) s (Reply.failIf true) t ∧ t.ce = .low := by
  obtain ⟨t, hr, hwork⟩ :=
    startBody_alone (n := n) (buf := buf) (s := (begun (.op (.send n buf)) s).entering (.op (.start n buf))) h.2.2 h.2.1 hp hc hb
  exact ⟨_, guarded_returns rfl h.1 (startRefusal_none hi hce h32) (sendBody_mismatch (s := begun (.op (.send n buf)) s) hr)
    hwork.called.work.inside, hwork.ce.trans hce⟩

theorem send_alone_returns (hb : s.cfg.absentByte.getLsbD s.cfg.bitPrimRx = false) (h32 : n ≤ 32) (hlen : n.toNat ≤ buf.length)
    (hs : s.cfg.absentByte.getLsbD s.cfg.bitTxDs = true) : ∃ t, Returns (.send n buf) s Reply.plain t ∧ t.dev = s.dev := by
  obtain ⟨x, hrun, hwent⟩ := sendBody_alone (s := begun (.op (.send n buf)) s) h.2.2 h.2.1 hp hc hb h32 hlen
  have hcfg : x.cfg = s.cfg := hwent.cfg
  obtain ⟨t, hr, hcalled⟩ := endSend_alone (s := x) (hcfg ▸ h.2.2) (hwent.complete h.2.1) (hcfg ▸ hp) (by rw [hcfg]; exact hs)
  have hall := hwent.trans hcalled.went
  rw [hcfg] at hr
  have hend : (endSend (begun (.op (.send n buf)) s).cfg).run x = .ok s.cfg.absentByte t := hr
  have hbody : (sendBody s.cfg n buf).run (begun (.op (.send n buf)) s) = .ok Reply.plain t :=
    hrun.trans (by rw [EStateM.run_bind, hend]; rfl)
  exact ⟨_, guarded_returns rfl h.1 (startRefusal_none hi hce h32) hbody hall.inside, hall.absent hp⟩

theorem send_alone_hangs (hb : s.cfg.absentByte.getLsbD s.cfg.bitPrimRx = false) (h32 : n ≤ 32) (hlen : n.toNat ≤ buf.length)
    (hs : s.cfg.absentByte.getLsbD s.cfg.bitTxDs = false) (hf : s.dev.fault = none) :
    ∃ t, exec (.send n buf) s = .next t ∧ Hangs t := by
  obtain ⟨x, hrun, hwent⟩ := sendBody_alone (s := begun (.op (.send n buf)) s) h.2.2 h.2.1 hp hc hb h32 hlen
  have hcfg : x.cfg = s.cfg := hwent.cfg
  have hdev : x.dev = s.dev := hwent.absent hp
  have silent : Silent x := .inr (by rw [hcfg]; exact ⟨hp, hs⟩)
  obtain ⟨t, hr, hv⟩ := endBody_vain (s := x.entering (.op .endSend)) (hcfg ▸ h.2.2) (hwent.complete h.2.1)
    (by show x.dev.fault = none; rw [hdev]; exact hf) silent rfl rfl rfl
  have hend : (endSend (begun (.op (.send n buf)) s).cfg).run x = .error .poll t := by
    rw [endSend, call_run, show (begun (.op (.send n buf)) s).cfg = x.cfg from hcfg.symm,
      show (endBody x.cfg).run _ = _ from hr]; rfl
  have hbody : (sendBody s.cfg n buf).run (begun (.op (.send n buf)) s) = .error .poll t :=
    hrun.trans (by rw [EStateM.run_bind, hend])
  exact ⟨t, serve_waits h.1 (guarded_waits (startRefusal_none hi hce h32) hbody), hv.hangs⟩

/-- StartListening raises the line when `ABSENT_BYTE` says receive, and fails otherwise. -/
theorem startListening_alone : ∃ t, Returns .startListening s
      { outcome := if s.cfg.absentByte.getLsbD s.cfg.bitPrimRx = true then .ok else .fail, d := 0, buf := [] } t ∧
    t.ce = if s.cfg.absentByte.getLsbD s.cfg.bitPrimRx = true then .high else .low := by
  obtain ⟨t, u, st, v, hr, ht, hwork, -, -, -, habs, -⟩ :=
    startListeningBody_ok (s := begun (.op .startListening) s) (w := withBit s.cfg.absentByte s.cfg.bitPrimRx true) h.2.2 h.2.1 hc
      rfl
  have hbit : v = withBit s.cfg.absentByte s.cfg.bitPrimRx true ↔ s.cfg.absentByte.getLsbD s.cfg.bitPrimRx = true := by
    rw [habs hp]
    exact eq_comm.trans (withBit_eq_self (config_layout h.2.2).1)
  by_cases hb : s.cfg.absentByte.getLsbD s.cfg.bitPrimRx = true
  · rw [if_pos (hbit.mpr hb)] at hr ht
    subst ht
    rw [if_pos hb, if_pos hb]
    exact ⟨_, guarded_returns rfl h.1 (cacheRefusal_none hi) hr (hwork.went.trans (lifted_went u)).inside, lifted_ce u⟩
  · rw [if_neg (fun e => hb (hbit.mp e))] at hr ht
    subst ht
    rw [if_neg hb, if_neg hb]
    exact ⟨_, guarded_returns rfl h.1 (cacheRefusal_none hi) hr hwork.inside, hwork.ce.trans hce⟩

end

end Sys2Proof.Machine

namespace Sys2Proof

open Sys2Proof.Machine

/-- Settles O46: each operation is decided by the bit of `ABSENT_BYTE` it reads. -/
theorem absentDeviceOutcomes : Obligations.AbsentDeviceOutcomes := by
  intro s n buf h hi hce h32 hlen hp hc
  obtain ⟨t, hlisten, hline⟩ := startListening_alone h hi hce hp hc
  refine ⟨fun hb => ⟨send_alone_fails h hi hce hp hc hb h32, t, ?_⟩, fun hb => ⟨⟨t, ?_⟩,
    fun hs => send_alone_returns h hi hce hp hc hb h32 hlen hs,
    fun hs _ hf => send_alone_hangs h hi hce hp hc hb h32 hlen hs hf⟩, ?_⟩
  · rw [if_pos hb] at hlisten hline
    exact ⟨hlisten, hline⟩
  · rw [if_neg (by rw [hb]; exact Bool.false_ne_true)] at hlisten hline
    exact ⟨hlisten, hline⟩
  · obtain ⟨t, st, hr, hcall, hcommand⟩ := pollReceivedBody_ok (s := begun (.op .pollReceived) s) h.2.2 h.2.1
    obtain ⟨-, -, -, -, -, habs, -⟩ := hcommand
    obtain rfl : st = s.cfg.absentByte := habs hp
    exact ⟨_, request_returns (f := fun b => Reply.byte (flagBit b 0)) (why := accepts) rfl h.1 rfl hr hcall.work⟩

end Sys2Proof
end

section
/-! Refusals (60_exceptions.md R292, R298): a request is refused `busy` first, then by the row of the table. -/

namespace Sys2Proof.Machine

variable {i : Instr} {s : State}

/-- While the sequencer is not idle a request is refused (30_encoding.md R103), whatever the device's state. -/
theorem exec_request_busy (hi : isRequest i = true) (hs : s.seq ≠ []) : exec i s = .next (refuse .busy s) := by
  obtain ⟨check, m, hr⟩ := request_servedBy hi s
  exact hr.runs.trans (if_pos hs)

/-- The table of refusals has no row for a raw frame. -/
theorem isRequest_of_refusal {why : RefuseReason} (hw : refusal s i = some why) : isRequest i = true := by
  cases i with
  | rRegister | wRegister | rRxPayload | wTxPayload | busFlushTx | busFlushRx | busNop => cases hw
  | _ => rfl

end Sys2Proof.Machine

namespace Sys2Proof

open Sys2Proof.Machine

/-- Settles O15: the sequencer is tested first; on an idle engine the check of a request is its row of the table. -/
theorem refusedInOrder : Obligations.RefusedInOrder :=
  ⟨fun _ _ hi hs => exec_request_busy hi hs, fun _ _ _ hs hw => exec_refused (isRequest_of_refusal hw) hs hw⟩

end Sys2Proof
end

section
/-! The tick (60_exceptions.md R296): what is put on the port, and when. -/

namespace Sys2Proof.Machine

variable {s : State}

/-- What a tick puts on the port decodes to the tick routine of the role, whatever the node's opcodes. -/
theorem decode_tickRequest (c : Cfg) : decode c.toOpcodes (tickRequest c) =
    .ok (match c.role with | .child => .childTick | .parent => .parentTick) := by
  rw [tickRequest]
  cases c.role with
  | child => rfl
  | parent => rfl

/-- An armed node whose engine is idle and whose port is empty takes the tick. -/
theorem tick_delivered (ha : s.tickArmed = true) (hs : s.seq = []) (hi : s.inbox = none) :
    tick s = { s with inbox := some (tickRequest s.cfg) } := if_pos ⟨ha, hs, hi⟩

/-- A node that is not armed, or whose engine is busy, skips it. -/
theorem tick_skipped (h : s.tickArmed = false ∨ s.seq ≠ []) : tick s = s := by
  refine if_neg fun ⟨ha, hs, _⟩ => ?_
  rcases h with h | h
  · exact Bool.false_ne_true (h.symm.trans ha)
  · exact h hs

end Sys2Proof.Machine

namespace Sys2Proof

open Sys2Proof.Machine

/-- Settles O49: the step of an idle node is its gap, and the gap is the tick. -/
theorem tickDelivery : Obligations.TickDelivery := by
  refine ⟨fun s later hs hi hf he ha => ?_, fun s h => tick_skipped h⟩
  have hgap : gap s = { s with env := later, inbox := some (tickRequest s.cfg) } := by
    rw [gap_single he, applyEvent]
    exact tick_delivered ha hs hi
  refine ⟨gap s, tickRequest s.cfg, step_idle hs hi hf, ?_, decode_tickRequest s.cfg, ?_⟩
  · rw [hgap]
  · rw [hgap]

end Sys2Proof
end
